-- ==== Sys2Proof/Word.lean ====
section
/-! DEFINITION. The value types of the block: patterns, position codes, samples and the 17-bit cycle word, with the
constants the spec fixes by name. The block has no signed value and no byte order (00_scope.md section 5,
20_memory.md R29); what the spec counts with is a `Nat`, what it treats as bits is a bit vector. -/

namespace Sys2Proof

/-- A digit pattern at logical level, 1 = lit: bit 0 is segment a, ..., bit 6 is g, bit 7 is the decimal point (R42). -/
abbrev Pattern := BitVec 8

/-- A position code: 0 units, 1 tens, 2 hundreds, 3 NONE (R45). -/
abbrev PosCode := BitVec 2

/-- A Raw Sample, SAMPLE_W = 10 bits (R5, 41_accumulator_averager.md R59). -/
abbrev RawSample := BitVec 10

/-- The input of ENC, ENC_IN_W = 10 bits (R5, R50). -/
abbrev EncValue := BitVec 10

/-- The cycle word W: what the environment presents to the clocked block in one cycle (R39). -/
abbrev CycleWord := BitVec 17

/-- BLANK, "all segments off" (R44). -/
abbrev blankPattern : Pattern := 0x00#8

/-- NONE, the position code that names no digit (R45). -/
abbrev posNone : PosCode := 3#2

/-- The decimal-point segment, bit 7 of a pattern (R42, R69). -/
abbrev dpMask : Pattern := 0x80#8

/-- SAMPLE_W, fixed by the spec (R5). -/
abbrev sampleW : Nat := 10

/-- The three cells of one pattern buffer, and the three outputs of ENC: index 0 is the units digit (R15, R50). -/
structure Digits where
  /-- position 0, "least-significant/rightmost" -/
  units    : Pattern
  /-- position 1 -/
  tens     : Pattern
  /-- position 2 -/
  hundreds : Pattern
  deriving DecidableEq, Repr, Inhabited

/-- The two formats of spec/opcode_table.json: the cycle word of the clocked block, and ENC's own input. -/
inductive Format where
  | cyc
  | comb
  deriving DecidableEq, Repr

/-- What the environment presents in one clock cycle: the cycle word (R39), and, in a cycle that performs ENCODE, a
value at the input of the standalone ENC, which has no clock of its own (R50, R54; assumption log 6). -/
structure Input where
  word : CycleWord
  enc  : Option EncValue
  deriving DecidableEq, Repr, Inhabited

/-- A cycle in which only the block is given something. -/
abbrev Input.cyc (w : CycleWord) : Input := ⟨w, none⟩

/-- A cycle in which ENC is given a value and the block no event: its cycle word is NOP's, 0 (R49). -/
abbrev Input.comb (v : EncValue) : Input := ⟨0x00000#17, some v⟩

/-- Smallest number of bits that can hold the numbers below `n`: ceil(log2 n), for the derived widths of R5. -/
def clog2 (n : Nat) : Nat := if n ≤ 1 then 0 else Nat.log2 (n - 1) + 1

end Sys2Proof
end

