-- ==== Sys2Proof/Config.lean ====
section
/-! DEFINITION. What one instance of the block fixes (the parameters of 00_scope.md R5 and R6) and what the spec leaves
free (the values it calls `any value`, and the environment's inputs). -/

namespace Sys2Proof

/-- The parameters of one block instance (R5, R6, R24). The spec wants each as "a named argument of the model", so they
are plain data that a state carries along and no operation changes (assumption log 1). NUM_DIGITS = 3, SAMPLE_W = 10,
ENC_IN_W = 10 and PAT_W = 8 are fixed by the spec and stand in the types. -/
structure Params where
  /-- WINDOW: samples per averaging window (R5) -/
  window       : Nat
  /-- WINDOW_LOG2: the shift that forms the mean (R5, R61) -/
  windowLog2   : Nat
  /-- SCALE_SHIFT: the shift from the mean to the Display Value (R5, R61) -/
  scaleShift   : Nat
  /-- SAMPLE_DIV: ticks per sampling-due raise (R5, R71) -/
  sampleDiv    : Nat
  /-- TICK_PERIOD_MS: timing only, no rule depends on it (R5, R105) -/
  tickPeriodMs : Nat
  /-- SEG_LUT: the digit-to-segment table (R6, R52) -/
  segLut       : Vector Pattern 10
  /-- SEG_ACTIVE_LOW: segment lines inverted (R6, R47) -/
  segActiveLow : Bool
  /-- SEL_ACTIVE_LOW: select lines inverted (R6, R47) -/
  selActiveLow : Bool
  /-- DP_RESET: reset value of dp_pos (R6, R18) -/
  dpReset      : PosCode
  /-- BLANK_CYCLES: cycles of blanking after each tick (R6, R72) -/
  blankCycles  : Nat
  deriving DecidableEq, Repr

/-- The default SEG_LUT, the usual seven-segment font in the bit order of R42 (R43). -/
def defaultLut : Vector Pattern 10 :=
  #v[0x3F#8, 0x06#8, 0x5B#8, 0x4F#8, 0x66#8, 0x6D#8, 0x7D#8, 0x07#8, 0x7F#8, 0x6F#8]

/-- Every parameter at the default R5 and R6 give it. -/
def Params.default : Params where
  window       := 16
  windowLog2   := 4
  scaleShift   := 2
  sampleDiv    := 15
  tickPeriodMs := 2
  segLut       := defaultLut
  segActiveLow := true
  selActiveLow := false
  dpReset      := posNone
  blankCycles  := 1

/-- SUM_W = SAMPLE_W + WINDOW_LOG2 (R5, R19). -/
def Params.sumW (p : Params) : Nat := sampleW + p.windowLog2

/-- CNT_W = WINDOW_LOG2 (R5, R20). -/
def Params.cntW (p : Params) : Nat := p.windowLog2

/-- VAL_W = SAMPLE_W - SCALE_SHIFT (R5, R61). -/
def Params.valW (p : Params) : Nat := sampleW - p.scaleShift

/-- SUB_W = ceil(log2 SAMPLE_DIV), at least 1 bit (R5, R13). -/
def Params.subW (p : Params) : Nat := max 1 (clog2 p.sampleDiv)

/-- The width of blank_cnt: ceil(log2(BLANK_CYCLES+1)), at least 1 bit (R23). -/
def Params.blankW (p : Params) : Nat := max 1 (clog2 (p.blankCycles + 1))

/-- FREE VALUE. A pattern the spec gives no value: an output of ENC for an input of 1000 or more (R55, U1), and the
pattern a TICK would latch from the cell a cursor of code 3 does not have (U13). `draw` is the count of steps so far,
`lane` tells the values drawn in one step apart (assumption log 2, 3). -/
opaque Config.freePattern (draw lane : Nat) : Pattern

/-- FREE VALUE. The cursor after a TICK whose pre-state cursor is the unreachable code 3 (R12, U13; assumption log 3). -/
opaque Config.freeCode (draw : Nat) : PosCode

/-- FREE VALUE. What the environment presents when nothing has been placed in the state's queue of inputs: "Each cycle
the environment supplies the block's inputs as free values" (R3, R84; assumption log 4). -/
opaque Config.envInput (draw : Nat) : Input

end Sys2Proof
end

