-- ==== Sys2Proof/Syntax.lean ====
section
/-! DEFINITION. The operations of the block, one constructor for each row of spec/opcode_table.json (00_scope.md R2,
30_encoding.md R40). A cycle may select several of them at once: a cycle's operations are a `List Instr`. -/

namespace Sys2Proof

/-- The operation set "DMX-OPS 1" (R2). The operand fields are those of R41 and of the opcode table. -/
inductive Instr where
  /-- RESET: put the block in its reset state (R95) -/
  | reset
  /-- TICK: one periodic multiplexer step (R67) -/
  | tick
  /-- SAMPLE: accept one Raw Sample, W[14:5] (R59) -/
  | sample (v : RawSample)
  /-- PUBLISH: the SAMPLE that completes a window; same bits as SAMPLE, told from it by acc_cnt = WINDOW-1 (R60) -/
  | publish (v : RawSample)
  /-- DUE_ACK: the consumer takes the Sampling-Due Signal (R75) -/
  | dueAck
  /-- DP_WRITE: set the Decimal-Point Position, W[16:15] (R76) -/
  | dpWrite (d : PosCode)
  /-- NOP: a cycle with no event (R77) -/
  | nop
  /-- ENCODE: the combinational function of ENC on its own 10-bit input (R54) -/
  | encode (v : EncValue)
  deriving DecidableEq, Repr

end Sys2Proof
end

