-- ==== Sys2Proof/WellFormed.lean ====
section
/-! DEFINITION. What the spec calls legal: a parameter set (00_scope.md R7 with 40_segment_encoder.md R52), an
operation's operands (R55), and the list of operations one cycle can select (30_encoding.md R40). -/

namespace Sys2Proof

/-- The three constraints on SEG_LUT (R52): bit 7 clear in every entry, no entry BLANK, entries pairwise distinct. -/
def Params.lutLegal (p : Params) : Bool :=
  p.segLut.toList.all (fun e => !e.getLsbD 7) &&
  p.segLut.toList.all (fun e => e != blankPattern) &&
  decide p.segLut.toList.Nodup

/-- A legal parameter set (R7). `sampleW ≤ scaleShift + 9` is SAMPLE_W - SCALE_SHIFT ≤ 9 without a truncated
subtraction. -/
def Params.legal (p : Params) : Bool :=
  decide (p.window = 2 ^ p.windowLog2) &&
  decide (1 ≤ p.windowLog2) &&
  decide (1 ≤ p.sampleDiv) &&
  decide (sampleW ≤ p.scaleShift + 9) &&
  p.lutLegal

/-- An operation within its contract: every operand of every operation is legal (R48), but an ENC input of 1000 or more
"is a contract violation" (R55). An operation outside its contract still runs, with free outputs. -/
def Instr.wf : Instr → Bool
  | .reset     => true
  | .tick      => true
  | .sample _  => true
  | .publish _ => true
  | .dueAck    => true
  | .dpWrite _ => true
  | .nop       => true
  | .encode v  => decide (v.toNat ≤ 999)

/-- The event bit of an operation that shares its cycle word with others: RESET and NOP share theirs with none, and ENCODE
has no event bit (R40). -/
def Instr.event? : Instr → Option Nat
  | .reset     => none
  | .tick      => some 1
  | .sample _  => some 2
  | .publish _ => some 2
  | .dueAck    => some 3
  | .dpWrite _ => some 4
  | .nop       => none
  | .encode _  => none

/-- Whether the operation is the one a cycle with sample_valid selects: PUBLISH when the window ends, SAMPLE when it
does not (R40). Any other operation is selected in either case. -/
def Instr.fitsWindow (windowEnd : Bool) : Instr → Bool
  | .reset     => true
  | .tick      => true
  | .sample _  => !windowEnd
  | .publish _ => windowEnd
  | .dueAck    => true
  | .dpWrite _ => true
  | .nop       => true
  | .encode _  => true

/-- The operations the cycle word of one clock cycle can select (R40), in the order of their event bits: RESET alone, NOP
alone, or one or more of TICK, SAMPLE or PUBLISH, DUE_ACK and DP_WRITE, each at most once. -/
def clockedWf (windowEnd : Bool) (ops : List Instr) : Bool :=
  ops == [.reset] || ops == [.nop] ||
  (!ops.isEmpty &&
    ops.all (fun i => i.event?.isSome && i.fitsWindow windowEnd) &&
    decide ((ops.filterMap Instr.event?).Pairwise (· < ·)))

/-- The value an operation puts at the input of the standalone ENC (R54). -/
def Instr.encValue? : Instr → Option EncValue
  | .reset     => none
  | .tick      => none
  | .sample _  => none
  | .publish _ => none
  | .dueAck    => none
  | .dpWrite _ => none
  | .nop       => none
  | .encode v  => some v

/-- The operations of one clock cycle: what its cycle word selects, and after it ENCODE where ENC is given a value
(R54). NOP, which does nothing, is listed only where nothing else is. -/
def cycleWf (windowEnd : Bool) (ops : List Instr) : Bool :=
  clockedWf windowEnd ops ||
  ((ops.getLast?.bind Instr.encValue?).isSome &&
    (ops.dropLast.isEmpty || (ops.dropLast != [.nop] && clockedWf windowEnd ops.dropLast)))

end Sys2Proof
end

