-- ==== Sys2Proof/Decode.lean ====
section
/-! DEFINITION. From the bits of a cycle word to the operations it selects, and back (30_encoding.md R39 to R41). Every
one of the 2^17 cycle words selects a defined set of operations (R48), so decoding a word never fails; what is refused,
by name, is a number that no word of the format can hold. -/

namespace Sys2Proof

/-- W[0], rst (R39). -/
def evRst (w : CycleWord) : Bool := w.getLsbD 0

/-- W[1], tick (R39). -/
def evTick (w : CycleWord) : Bool := w.getLsbD 1

/-- W[2], sample_valid (R39). -/
def evSample (w : CycleWord) : Bool := w.getLsbD 2

/-- W[3], due_ack (R39). -/
def evAck (w : CycleWord) : Bool := w.getLsbD 3

/-- W[4], dp_we (R39). -/
def evDpWe (w : CycleWord) : Bool := w.getLsbD 4

/-- W[14:5], field s, the sample (R39, R41). -/
def fieldSample (w : CycleWord) : RawSample := w.extractLsb' 5 10

/-- W[16:15], field p, dp_pos_in (R39, R41). -/
def fieldDp (w : CycleWord) : PosCode := w.extractLsb' 15 2

/-- The operations the event bits of a cycle word select (R40), in the order of those bits. RESET masks every other event
bit. The bits of SAMPLE and of PUBLISH are the same: `windowEnd` is the state's part of the selection, pre-state
acc_cnt = WINDOW-1. -/
def eventOps (windowEnd : Bool) (w : CycleWord) : List Instr :=
  if evRst w then [.reset]
  else
    (if evTick w then [.tick] else []) ++
    (if evSample w then [if windowEnd then .publish (fieldSample w) else .sample (fieldSample w)] else []) ++
    (if evAck w then [.dueAck] else []) ++
    (if evDpWe w then [.dpWrite (fieldDp w)] else [])

/-- The operations a cycle word selects (R40): those of its event bits, or NOP where no event bit is set. -/
def selectedOps (windowEnd : Bool) (w : CycleWord) : List Instr :=
  if (eventOps windowEnd w).isEmpty then [.nop] else eventOps windowEnd w

/-- The operations of one cycle: those its word selects, and ENCODE of the value at ENC's own input where the cycle
presents one (R40, R54). NOP, which does nothing, is not listed beside ENCODE. -/
def decodeInput (windowEnd : Bool) (x : Input) : List Instr :=
  match x.enc with
  | none   => selectedOps windowEnd x.word
  | some v => eventOps windowEnd x.word ++ [.encode v]

/-- Why a number is no word of its format. -/
inductive DecodeError where
  /-- the number has a bit above bit 16 of a cycle word, or above bit 9 of an ENC input: no line carries it -/
  | wordTooWide
  deriving DecidableEq, Repr

/-- What decoding a number answers: the operations, or the reason it is no word. -/
inductive Decoded where
  | ops (is : List Instr)
  | refused (e : DecodeError)
  deriving DecidableEq, Repr

/-- The input that the bits `w` of the given format present: a cycle word of 17 bits (R39), or a value of 10 bits at
ENC's input, in a cycle without an event (R40). -/
def inputOfBits : Format → Nat → Option Input
  | .cyc,  w => if w < 2 ^ 17 then some (.cyc (BitVec.ofNat 17 w)) else none
  | .comb, w => if w < 2 ^ 10 then some (.comb (BitVec.ofNat 10 w)) else none

/-- Decoding any number, of either format. -/
def decodeBits (windowEnd : Bool) (f : Format) (w : Nat) : Decoded :=
  match inputOfBits f w with
  | some i => .ops (decodeInput windowEnd i)
  | none   => .refused .wordTooWide

/-- The cycle word of one operation alone, unused operand fields 0 (R39, R40, R49). ENCODE has no event bit: its cycle
word is NOP's. -/
def encodeWord : Instr → CycleWord
  | .reset     => 0x00001#17
  | .tick      => 0x00002#17
  | .sample v  => v.setWidth 17 <<< 5 ||| 0x00004#17
  | .publish v => v.setWidth 17 <<< 5 ||| 0x00004#17
  | .dueAck    => 0x00008#17
  | .dpWrite d => d.setWidth 17 <<< 15 ||| 0x00010#17
  | .nop       => 0x00000#17
  | .encode _  => 0x00000#17

/-- What the environment presents to have one operation performed alone. -/
def encodeInstr (i : Instr) : Input := ⟨encodeWord i, i.encValue?⟩

/-- The cycle word that selects several operations at once: the operations joined (R49). -/
def encodeCycle : List Instr → CycleWord
  | []      => 0x00000#17
  | i :: is => encodeWord i ||| encodeCycle is

/-- What the environment presents to have the operations of one cycle performed together. -/
def encodeInput (ops : List Instr) : Input := ⟨encodeCycle ops, ops.findSome? Instr.encValue?⟩

/-- The format of an operation's row in the opcode table. -/
def instrFormat : Instr → Format
  | .reset     => .cyc
  | .tick      => .cyc
  | .sample _  => .cyc
  | .publish _ => .cyc
  | .dueAck    => .cyc
  | .dpWrite _ => .cyc
  | .nop       => .cyc
  | .encode _  => .comb

/-- The bits of an operation in its row's format: its cycle word, or for ENCODE its own 10-bit field v. -/
def rowBits (i : Instr) : Nat := (i.encValue?.map BitVec.toNat).getD (encodeWord i).toNat

/-- One row of spec/opcode_table.json: mnemonic, mask and match (R40). -/
structure OpRow where
  mnemonic : String
  mask     : CycleWord
  pattern  : CycleWord
  deriving DecidableEq, Repr

/-- The row of an operation, as the table writes it (R40). -/
def opRow : Instr → OpRow
  | .reset     => ⟨"RESET",    0x00001#17, 0x00001#17⟩
  | .tick      => ⟨"TICK",     0x00003#17, 0x00002#17⟩
  | .sample _  => ⟨"SAMPLE",   0x00005#17, 0x00004#17⟩
  | .publish _ => ⟨"PUBLISH",  0x00005#17, 0x00004#17⟩
  | .dueAck    => ⟨"DUE_ACK",  0x00009#17, 0x00008#17⟩
  | .dpWrite _ => ⟨"DP_WRITE", 0x00011#17, 0x00010#17⟩
  | .nop       => ⟨"NOP",      0x0001F#17, 0x00000#17⟩
  | .encode _  => ⟨"ENCODE",   0x00000#17, 0x00000#17⟩

/-- The table's test: the word has the row's fixed bits. -/
def OpRow.accepts (r : OpRow) (w : CycleWord) : Bool := (w &&& r.mask) == r.pattern

/-- The input that the bits of a row of the opcode table stand for. A word given in 16 bits is ENC's 10-bit input
unless it has SAMPLE's fixed bits; every other word is a cycle word (assumption log 5). -/
def tableInput (nbits w : Nat) : Option Input :=
  if nbits = 16 ∧ w &&& 0x5 ≠ 0x4 then inputOfBits .comb w else inputOfBits .cyc w

/-- The instruction the decoder reads from a row's word, with the window not at its end, as it is after reset
(WINDOW is at least 2, R7). Where the word selects several operations, the one of the lowest event bit. -/
def decodeTableWord (nbits w : Nat) : Option Instr :=
  match tableInput nbits w with
  | some i => (decodeInput false i).head?
  | none   => none

end Sys2Proof
end

