-- ==== Sys2Proof/Machine/State.lean ====
section
/-! DEFINITION. The state of the machine: the twelve fields 10_state.md gives the block, and beside them what the model
needs to run as one step function (the instance's parameters, the lines of the standalone ENC, the inputs the
environment has placed, and the count of steps that indexes the free values). -/

namespace Sys2Proof.Machine

/-- The architectural state of the block, field for field the table of 10_state.md section 1. Counters are naturals, as
R8 computes with them; their widths are `Block.fits` (Safety.lean). -/
structure Block where
  /-- `cursor`: the position the next TICK drives, 2 bits (R12) -/
  cursor   : PosCode
  /-- `sub`: ticks since the last raise, SUB_W bits (R13) -/
  sub      : Nat
  /-- `due`: the Sampling-Due Signal (R14) -/
  due      : Bool
  /-- `active[0..2]`: the buffer half the multiplexer reads (R15) -/
  active   : Digits
  /-- `shadow[0..2]`: the buffer half the acquisition side writes (R16) -/
  shadow   : Digits
  /-- `pending`: shadow holds a generation not yet copied to active (R17) -/
  pending  : Bool
  /-- `dp_pos`: the Decimal-Point Position (R18) -/
  dpPos    : PosCode
  /-- `acc_sum`: running sum of raw samples, SUM_W bits (R19) -/
  accSum   : Nat
  /-- `acc_cnt`: samples in the current window, CNT_W bits (R20) -/
  accCnt   : Nat
  /-- `drv_idx`: the position the driver is showing, or NONE (R21) -/
  drvIdx   : PosCode
  /-- `drv_pat`: the pattern the driver is showing, decimal point included (R22) -/
  drvPat   : Pattern
  /-- `blank_cnt`: cycles of blanking still to come (R23) -/
  blankCnt : Nat
  deriving DecidableEq, Repr

/-- A buffer with every cell BLANK (R44). -/
def blankDigits : Digits := ⟨blankPattern, blankPattern, blankPattern⟩

/-- RESET_STATE (R96). -/
def Block.reset (p : Params) : Block where
  cursor   := 0#2
  sub      := 0
  due      := false
  active   := blankDigits
  shadow   := blankDigits
  pending  := false
  dpPos    := p.dpReset
  accSum   := 0
  accCnt   := 0
  drvIdx   := posNone
  drvPat   := 0x00#8
  blankCnt := 0

/-- The lines of the standalone ENC (R50, R54; the model's own fields, assumption log 6). ENC has no state: its outputs
are a function of the value at its input. -/
structure EncPort where
  /-- the value last presented at ENC's input, which stays there until another is -/
  value : EncValue
  /-- the cycle in which it was presented: the index of the free outputs, used only where that value is 1000 or more (R55) -/
  draw  : Nat
  deriving DecidableEq, Repr

/-- The whole state of the model. -/
structure State where
  /-- the parameters of this block, which no operation changes (R24; assumption log 1) -/
  params : Params
  /-- the architectural state (10_state.md) -/
  block  : Block
  /-- the lines of the standalone ENC (assumption log 6) -/
  enc    : EncPort
  /-- what the environment has placed for the coming steps, the next one first (R3; assumption log 4) -/
  inputs : List Input
  /-- how many steps have been taken: the index of the free values (assumption log 2) -/
  steps  : Nat
  deriving DecidableEq, Repr

/-- Faults: there are none. "The block raises no exception, trap or fault" (R85), so no step of any state answers one. -/
inductive Fault where
  deriving DecidableEq, Repr

/-- Why a step answers no next state. -/
inductive Refusal where
  /-- raised by exec for an operation without a meaning; no arm raises it in this model. Safe. -/
  | notModelled (mnemonic : String)
  /-- raised by step, and by nothing else, in a state whose parameter set is not legal: "A model must refuse an illegal
  parameter set" (R7). Safe: the machine does not go on. -/
  | illegalParams
  deriving DecidableEq, Repr

/-- What a meaning and a step answer. -/
abbrev Result := Host.Outcome State Fault Refusal

/-- A block of the given parameters right after RESET (R96), nothing placed at its inputs. -/
def State.resetWith (p : Params) : State where
  params := p
  block  := Block.reset p
  enc    := ⟨0#10, 0⟩
  inputs := []
  steps  := 0

/-- The machine right after reset, at the default parameters (R5, R6, R96). -/
def State.reset : State := State.resetWith Params.default

end Sys2Proof.Machine
end

