-- ==== Sys2Proof/Machine/Flags.lean ====
section
/-! DEFINITION. The two flags of the block, `due` and `pending`, and how a set and a clear of one cycle are resolved
(43_cycle_step.md R81). -/

namespace Sys2Proof.Machine

/-- Next value of `due`: a raising TICK wins over DUE_ACK (R81, R37). -/
def nextDue (dueSet dueClear due : Bool) : Bool :=
  if dueSet then true else if dueClear then false else due

/-- Next value of `pending`: PUBLISH wins over the frame swap's clear (R81). -/
def nextPending (pubSet swapClear pending : Bool) : Bool :=
  if pubSet then true else if swapClear then false else pending

/-- `due_set`: the incremented sub-counter reaches SAMPLE_DIV (R67 step 4, R71). -/
def raisesDue (p : Params) (sub : Nat) : Bool := sub + 1 == p.sampleDiv

/-- Next value of `sub` at a TICK (R67 step 4, R71). -/
def nextSub (p : Params) (sub : Nat) : Nat := if raisesDue p sub then 0 else sub + 1

/-- `swap_clear`: the frame swap happens, at a TICK with pre-state cursor 0 and pending 1 (R68). -/
def swapFires (b : Block) : Bool := b.cursor == 0#2 && b.pending

/-- The next SAMPLE completes the window: acc_cnt = WINDOW-1, written without a truncated subtraction (R59, R60). -/
def windowEnds (p : Params) (b : Block) : Bool := b.accCnt + 1 == p.window

end Sys2Proof.Machine
end

