-- ==== Sys2Proof/Machine/Operands.lean ====
section
/-! DEFINITION. How operands and buffer cells are read: 30_encoding.md R41, R45, R46 and 40_segment_encoder.md R52. -/

namespace Sys2Proof.Machine

/-- Cell `c` of a buffer; code 3 names no cell (R15, R45). -/
def cellAt (a : Digits) (c : PosCode) : Option Pattern :=
  if c = 0#2 then some a.units
  else if c = 1#2 then some a.tens
  else if c = 2#2 then some a.hundreds
  else none

/-- SAMPLE's operand, "used as zext_14(sample)": its unsigned value (R41, R59). -/
def sampleOperand (v : RawSample) : Nat := v.toNat

/-- `onehot3`: the select value with only bit `c` set; NONE selects nothing (R46). -/
def onehot3 (c : PosCode) : BitVec 3 :=
  if c = 0#2 then 0b001#3
  else if c = 1#2 then 0b010#3
  else if c = 2#2 then 0b100#3
  else 0b000#3

/-- `LUT(d)` for a decimal digit d (R52). No digit is above 9: `digitsOf` makes none for an input within contract, so
the BLANK of that branch is never read. -/
def lut (p : Params) (d : Nat) : Pattern := p.segLut[d]?.getD blankPattern

end Sys2Proof.Machine
end

