-- ==== Sys2Proof/Machine/Ops.lean ====
section
/-! DEFINITION. What one operation asks to be written, how the operations of one cycle are combined, and the clock edge
that writes them (43_cycle_step.md R79 to R81). The block has no memory, so there is no memory operation (20_memory.md
R28), and no exception, so there is no entry into one and no return (60_exceptions.md R85, R91). -/

namespace Sys2Proof.Machine

/-- What an operation asks to be written at the clock edge. It is computed from the pre-state alone (R80). A field
left at `none` is not written. -/
structure Writes where
  reset     : Bool           := false
  cursor    : Option PosCode := none
  sub       : Option Nat     := none
  active    : Option Digits  := none
  shadow    : Option Digits  := none
  dpPos     : Option PosCode := none
  accSum    : Option Nat     := none
  accCnt    : Option Nat     := none
  drvIdx    : Option PosCode := none
  drvPat    : Option Pattern := none
  blankCnt  : Option Nat     := none
  /-- `due_set` (R71) -/
  dueSet    : Bool           := false
  /-- `due_clear` (R75) -/
  dueClear  : Bool           := false
  /-- `pub_set` (R60) -/
  pubSet    : Bool           := false
  /-- `swap_clear` (R68) -/
  swapClear : Bool           := false
  /-- the value put at the input of the standalone ENC (R54): a line, no state of the block -/
  enc       : Option EncValue := none
  deriving DecidableEq, Repr

/-- The writes of two operations of one cycle together. Every field but the two flags has one writer (R81), so which
operand stands first does not matter. -/
def Writes.merge (x y : Writes) : Writes where
  reset     := x.reset || y.reset
  cursor    := x.cursor.or y.cursor
  sub       := x.sub.or y.sub
  active    := x.active.or y.active
  shadow    := x.shadow.or y.shadow
  dpPos     := x.dpPos.or y.dpPos
  accSum    := x.accSum.or y.accSum
  accCnt    := x.accCnt.or y.accCnt
  drvIdx    := x.drvIdx.or y.drvIdx
  drvPat    := x.drvPat.or y.drvPat
  blankCnt  := x.blankCnt.or y.blankCnt
  dueSet    := x.dueSet || y.dueSet
  dueClear  := x.dueClear || y.dueClear
  pubSet    := x.pubSet || y.pubSet
  swapClear := x.swapClear || y.swapClear
  enc       := x.enc.or y.enc

/-- The state after the clock edge: RESET wins over everything, a field nobody writes keeps its value (R80), the flags
follow R81, and without a load blank_cnt counts down to 0 and stays there (R72). -/
def Block.commit (p : Params) (b : Block) (x : Writes) : Block :=
  if x.reset then Block.reset p
  else
    { cursor   := x.cursor.getD b.cursor
      sub      := x.sub.getD b.sub
      due      := nextDue x.dueSet x.dueClear b.due
      active   := x.active.getD b.active
      shadow   := x.shadow.getD b.shadow
      pending  := nextPending x.pubSet x.swapClear b.pending
      dpPos    := x.dpPos.getD b.dpPos
      accSum   := x.accSum.getD b.accSum
      accCnt   := x.accCnt.getD b.accCnt
      drvIdx   := x.drvIdx.getD b.drvIdx
      drvPat   := x.drvPat.getD b.drvPat
      blankCnt := x.blankCnt.getD (b.blankCnt - 1) }

/-- The lines of the standalone ENC from the cycle with the given index on: the value presented in that cycle, or the one
there was (R50; assumption log 6). RESET leaves them alone, since ENC has no state to reset. -/
def EncPort.next (e : EncPort) (draw : Nat) : Option EncValue → EncPort
  | none   => e
  | some v => ⟨v, draw⟩

/-- One cycle of `clk`, ended by its rising edge (R79): the block takes what the cycle's operations ask for. Every step of
the machine is one. -/
def State.clock (s : State) (x : Writes) : State :=
  { s with
    block := s.block.commit s.params x
    enc   := s.enc.next s.steps x.enc
    steps := s.steps + 1 }

end Sys2Proof.Machine
end

