-- ==== Sys2Proof/Machine/Encoder.lean ====
section
/-! DEFINITION. ENC, the 7segment_encoder: 40_segment_encoder.md. -/

namespace Sys2Proof.Machine

/-- The three patterns of a value within contract: digits by R51, table by R52, leading zeros blanked by R53, as the
pseudocode of R54 has it. -/
def digitsOf (p : Params) (value : Nat) : Digits :=
  let h := value / 100
  let t := (value / 10) % 10
  let u := value % 10
  { units    := lut p u
    tens     := if h = 0 ∧ t = 0 then blankPattern else lut p t
    hundreds := if h = 0 then blankPattern else lut p h }

/-- The outputs for an input outside the contract: "a free draw of three 8-bit patterns" (R55, U1; assumption log 2). -/
def freeDigits (draw : Nat) : Digits :=
  ⟨Config.freePattern draw 0, Config.freePattern draw 1, Config.freePattern draw 2⟩

/-- ENCODE (R54), with R55 for a value of 1000 or more. -/
def encodeDigits (p : Params) (draw value : Nat) : Digits :=
  if value ≤ 999 then digitsOf p value else freeDigits draw

/-- The outputs of the standalone ENC: a function of the value at its input (R50, R54, R55). -/
def EncPort.out (p : Params) (e : EncPort) : Digits := encodeDigits p e.draw e.value.toNat

/-- The outputs of the standalone ENC for the value last presented. -/
def State.encOut (s : State) : Digits := s.enc.out s.params

/-- ENCODE (R54): it puts `v` at ENC's input and writes no state of the block. -/
def encodeWrites (v : EncValue) : Writes := { enc := some v }

/-- ENCODE in a cycle of its own (R54, R82): the block, given no event, takes the cycle as it takes any (R72). -/
def execEncode (v : EncValue) (s : State) : Result := .next (s.clock (encodeWrites v))

/-- `dig` of R57, defined on BLANK and the ten table entries only. -/
def digitOfPattern (p : Params) (q : Pattern) : Option Nat :=
  if q = blankPattern then some 0 else (List.range 10).find? (fun d => lut p d == q)

/-- `Decode` of R57, the test oracle the source names; no hardware of the block. -/
def valueOfDigits (p : Params) (a : Digits) : Option Nat :=
  match digitOfPattern p a.hundreds, digitOfPattern p a.tens, digitOfPattern p a.units with
  | some h, some t, some u => some (100 * h + 10 * t + u)
  | _, _, _ => none

end Sys2Proof.Machine
end

