-- ==== Sys2Proof/Machine/Acc.lean ====
section
/-! DEFINITION. ACC, the adc_accumulator_averager: 41_accumulator_averager.md. -/

namespace Sys2Proof.Machine

/-- `sum1`: the sum with the sample now presented (R59), exact on naturals (R8, R62). -/
def sumWith (b : Block) (v : RawSample) : Nat := b.accSum + sampleOperand v

/-- The mean (R61). -/
def meanOf (p : Params) (sum1 : Nat) : Nat := sum1 >>> p.windowLog2

/-- The Display Value (R61). -/
def displayValue (p : Params) (sum1 : Nat) : Nat := meanOf p sum1 >>> p.scaleShift

/-- PUBLISH(sum1): all three cells of shadow, and pub_set (R60). -/
def publishWrites (p : Params) (draw sum1 : Nat) : Writes :=
  { shadow := some (encodeDigits p draw (displayValue p sum1)), pubSet := true }

/-- The accumulator after a sample that does not complete the window (R59). -/
def accumulateWrites (b : Block) (sum1 : Nat) : Writes :=
  { accSum := some sum1, accCnt := some (b.accCnt + 1) }

/-- The accumulator after the sample that completes the window: "Reset accumulator and count to zero" (R59). -/
def closeWindowWrites : Writes := { accSum := some 0, accCnt := some 0 }

/-- SAMPLE (R59): PUBLISH and the zeroing where the sample completes the window, the sum and the count where not. -/
def sampleWrites (p : Params) (draw : Nat) (b : Block) (v : RawSample) : Writes :=
  if windowEnds p b then (publishWrites p draw (sumWith b v)).merge closeWindowWrites
  else accumulateWrites b (sumWith b v)

/-- SAMPLE in a cycle of its own (R59, R82). -/
def execSample (v : RawSample) (s : State) : Result :=
  .next (s.clock (sampleWrites s.params s.steps s.block v))

/-- PUBLISH (R60): it has no event of its own and happens in the SAMPLE cycle whose pre-state acc_cnt is WINDOW-1, so
its cycle is that SAMPLE's. In a state where the window does not end the same bits are a SAMPLE that publishes nothing
(R63; assumption log 7). -/
def execPublish (v : RawSample) (s : State) : Result :=
  .next (s.clock (sampleWrites s.params s.steps s.block v))

end Sys2Proof.Machine
end

