-- ==== Sys2Proof/Machine/Dmx.lean ====
section
/-! DEFINITION. DMX, the display multiplexer: 42_display_multiplexer.md. -/

namespace Sys2Proof.Machine

/-- The cursor modulo 3 (R70). From the unreachable code 3 it is a free value (U13; assumption log 3). -/
def nextCursor (draw : Nat) (c : PosCode) : PosCode :=
  if c = posNone then Config.freeCode draw else if c = 2#2 then 0#2 else c + 1#2

/-- The pattern a TICK latches: `A[c] | dp_bit` (R69). A cursor of code 3 names no cell: a free value (U13; log 3). -/
def drivePattern (draw : Nat) (a : Digits) (dp c : PosCode) : Pattern :=
  match cellAt a c with
  | some q => q ||| (if dp = c then dpMask else 0x00#8)
  | none   => Config.freePattern draw 3

/-- The buffer a TICK latches from: the generation being swapped in, or the active one (R67, R68). -/
def shownDigits (b : Block) : Digits := if swapFires b then b.shadow else b.active

/-- TICK (R67): frame swap, select and latch, cursor, sampling-due generator, blanking load. -/
def tickWrites (p : Params) (draw : Nat) (b : Block) : Writes :=
  { active    := if swapFires b then some b.shadow else none
    drvIdx    := some b.cursor
    drvPat    := some (drivePattern draw (shownDigits b) b.dpPos b.cursor)
    blankCnt  := some p.blankCycles
    cursor    := some (nextCursor draw b.cursor)
    sub       := some (nextSub p b.sub)
    dueSet    := raisesDue p b.sub
    swapClear := swapFires b }

/-- DUE_ACK (R75): due_clear. -/
def dueAckWrites : Writes := { dueClear := true }

/-- DP_WRITE (R76). -/
def dpWriteWrites (d : PosCode) : Writes := { dpPos := some d }

/-- NOP (R77): nothing; the blanking counter's own count down is the clock edge's (R72). -/
def nopWrites : Writes := {}

/-- TICK in a cycle of its own (R67, R82). -/
def execTick (s : State) : Result := .next (s.clock (tickWrites s.params s.steps s.block))

/-- DUE_ACK in a cycle of its own (R75, R82). -/
def execDueAck (s : State) : Result := .next (s.clock dueAckWrites)

/-- DP_WRITE in a cycle of its own (R76, R82). -/
def execDpWrite (d : PosCode) (s : State) : Result := .next (s.clock (dpWriteWrites d))

/-- NOP (R77, R82). -/
def execNop (s : State) : Result := .next (s.clock nopWrites)

end Sys2Proof.Machine
end

