-- ==== Sys2Proof/Machine/Reset.lean ====
section
/-! DEFINITION. RESET: 70_reset_and_hazards.md R95, R96. -/

namespace Sys2Proof.Machine

/-- RESET asks for the reset state; `Block.commit` lets it win over every other write of the cycle (R81, R95). -/
def resetWrites : Writes := { reset := true }

/-- RESET (R95). -/
def execReset (s : State) : Result := .next (s.clock resetWrites)

end Sys2Proof.Machine
end

