-- ==== Sys2Proof/Machine/Dispatch.lean ====
section
/-! DEFINITION. One arm for each operation: its meaning in a cycle that selects it alone. -/

namespace Sys2Proof.Machine

def exec (i : Instr) (s : State) : Host.Outcome State Fault Refusal :=
  match i with
  | .reset => Sys2Proof.Machine.execReset s
  | .tick => Sys2Proof.Machine.execTick s
  | .sample v => Sys2Proof.Machine.execSample v s
  | .publish v => Sys2Proof.Machine.execPublish v s
  | .dueAck => Sys2Proof.Machine.execDueAck s
  | .dpWrite d => Sys2Proof.Machine.execDpWrite d s
  | .nop => Sys2Proof.Machine.execNop s
  | .encode v => Sys2Proof.Machine.execEncode v s

end Sys2Proof.Machine
end

