-- ==== Sys2Proof/Machine/Cycle.lean ====
section
/-! DEFINITION. A cycle that selects several operations: all of them read the pre-state, and their writes take effect
together at the clock edge (20_memory.md R35, 43_cycle_step.md R80 to R82, 60_exceptions.md R90). -/

namespace Sys2Proof.Machine

/-- What one operation asks to be written, from the pre-state alone (R80). -/
def writesOf (p : Params) (draw : Nat) (b : Block) : Instr → Writes
  | .reset     => resetWrites
  | .tick      => tickWrites p draw b
  | .sample v  => sampleWrites p draw b v
  | .publish v => sampleWrites p draw b v
  | .dueAck    => dueAckWrites
  | .dpWrite d => dpWriteWrites d
  | .nop       => nopWrites
  | .encode v  => encodeWrites v

/-- The writes of all operations of a cycle. -/
def cycleWrites (p : Params) (draw : Nat) (b : Block) : List Instr → Writes
  | []      => {}
  | i :: is => (writesOf p draw b i).merge (cycleWrites p draw b is)

/-- One clock cycle with the given operations selected (R82). -/
def State.cycle (s : State) (ops : List Instr) : State :=
  s.clock (cycleWrites s.params s.steps s.block ops)

/-- The state after the clock cycle in which the given word is presented (R40, R82). -/
def State.afterWord (s : State) (w : CycleWord) : State :=
  s.cycle (selectedOps (windowEnds s.params s.block) w)

/-- The state after the clock cycle in which the given input is presented (R40, R54, R82). -/
def State.afterInput (s : State) (x : Input) : State :=
  s.cycle (decodeInput (windowEnds s.params s.block) x)

/-- One operation alone is its own meaning; several share one clock edge. -/
def runOps (ops : List Instr) (s : State) : Result :=
  match ops with
  | [i] => exec i s
  | _   => .next (s.cycle ops)

/-- What the environment presents next: the first placed input, or a free one where none is placed (R3, R84; log 4). -/
def State.nextInput (s : State) : Input := s.inputs.headD (Config.envInput s.steps)

/-- The state with that input taken. -/
def State.consume (s : State) : State := { s with inputs := s.inputs.tail }

/-- The operations the next input selects in this state (R40). -/
def State.nextOps (s : State) : List Instr := decodeInput (windowEnds s.params s.block) s.nextInput

/-- `s` with the word of an opcode-table row placed as its next input. A number that is no word is not placed. -/
def State.placeTableWord (s : State) (nbits w : Nat) : State :=
  match tableInput nbits w with
  | some i => { s with inputs := i :: s.inputs }
  | none   => s

/-- `s` with cycle words placed before whatever is placed already. -/
def State.feed (s : State) (ws : List CycleWord) : State := { s with inputs := ws.map Input.cyc ++ s.inputs }

end Sys2Proof.Machine
end

