-- ==== Sys2Proof/Machine/Step.lean ====
section
/-! DEFINITION. The one step: take what the environment presents and perform the operations it selects
(43_cycle_step.md R82). A state whose parameter set is illegal is refused (00_scope.md R7). -/

namespace Sys2Proof.Machine

/-- One step of the machine. -/
def step (s : State) : Host.Outcome State Fault Refusal :=
  if s.params.legal then runOps s.nextOps s.consume else .refused .illegalParams

/-- `s` with the given word of the opcode table placed where the next step takes its input. The block fetches nothing
(R11): the environment presents its operations, and this stands for one presentation (assumption log 4). -/
def State.withFetchWord (s : State) (nbits w : Nat) : State := s.placeTableWord nbits w

end Sys2Proof.Machine
end

