-- ==== Sys2Proof/Machine/Assembler.lean ====
section
/-! DEFINITION. The assembler notation of 30_encoding.md R49: a line is a cycle or a pseudo-instruction, and it stands
for a list of cycle words. -/

namespace Sys2Proof.Machine

/-- One line. -/
inductive Line where
  /-- operations joined by `+`, one cycle -/
  | ops (is : List Instr)
  /-- `NOP*n` -/
  | nops (n : Nat)
  /-- `TICK*n` -/
  | ticks (n : Nat)
  /-- `SAMPLE*n v` -/
  | samples (n : Nat) (v : RawSample)
  /-- `WINDOW v` -/
  | window (v : RawSample)
  /-- `SHOW` -/
  | showDigit
  /-- `FRAME` -/
  | frame
  deriving DecidableEq, Repr

/-- `SHOW`: TICK, then NOP*BLANK_CYCLES (R49). -/
def showWords (p : Params) : List CycleWord :=
  encodeWord .tick :: List.replicate p.blankCycles (encodeWord .nop)

/-- The cycle words a line stands for (R49). -/
def expandLine (p : Params) : Line → List CycleWord
  | .ops is      => [encodeCycle is]
  | .nops n      => List.replicate n (encodeWord .nop)
  | .ticks n     => List.replicate n (encodeWord .tick)
  | .samples n v => List.replicate n (encodeWord (.sample v))
  | .window v    => List.replicate p.window (encodeWord (.sample v))
  | .showDigit   => showWords p
  | .frame       => showWords p ++ showWords p ++ showWords p

/-- The cycle words of a program. -/
def assemble (p : Params) (prog : List Line) : List CycleWord := prog.flatMap (expandLine p)

end Sys2Proof.Machine
end

