-- ==== Sys2Proof/Machine/Outputs.lean ====
section
/-! DEFINITION. The outputs, functions of the state alone, and the observation of a run (10_state.md R26,
42_display_multiplexer.md R73, 30_encoding.md R47, 43_cycle_step.md R83). -/

namespace Sys2Proof.Machine

/-- The observable outputs at electrical level (R26, R38). -/
structure Outputs where
  /-- `seg[7:0]` -/
  seg : BitVec 8
  /-- `sel[2:0]` -/
  sel : BitVec 3
  /-- `due` -/
  due : Bool
  deriving DecidableEq, Repr

/-- A digit is shown: one has been driven and no blanking is left (R73). -/
def visible (b : Block) : Bool := b.drvIdx != posNone && b.blankCnt == 0

/-- `sel_l`, the select lines at logical level (R73). -/
def selL (b : Block) : BitVec 3 := if visible b then onehot3 b.drvIdx else 0b000#3

/-- `seg_l`, the segment lines at logical level (R73). -/
def segL (b : Block) : Pattern := if visible b then b.drvPat else blankPattern

/-- `seg` (R47, R73). -/
def segPins (p : Params) (b : Block) : BitVec 8 := if p.segActiveLow then ~~~(segL b) else segL b

/-- `sel` (R47, R73). -/
def selPins (p : Params) (b : Block) : BitVec 3 := if p.selActiveLow then ~~~(selL b) else selL b

/-- The outputs in a cycle, from the pre-state of that cycle (R73, R83). -/
def State.outputs (s : State) : Outputs :=
  ⟨segPins s.params s.block, selPins s.params s.block, s.block.due⟩

/-- The outputs of the standalone ENC in the cycle about to be performed: ENC is combinational, so a value presented in
that cycle shows in it (R50, R54). -/
def State.encNow (s : State) : Digits := (s.enc.next s.steps s.nextInput.enc).out s.params

/-- The observation of the first `n` steps: the outputs of each cycle from its pre-state, in order (R83). Every step is
one clock cycle (R79). -/
def observe : Nat → State → List Outputs
  | 0,     _ => []
  | n + 1, s => s.outputs ::
    match step s with
    | .next t    => observe n t
    | .fault _   => []
    | .refused _ => []

end Sys2Proof.Machine
end

