-- ==== Sys2Proof/Safety.lean ====
section
/-! DEFINITION. The terms in which claims about the machine are written: the invariant of 10_state.md R25, the widths of
the counters, runs over a list of cycle words, and the pseudocode of 43_cycle_step.md R82 written down in its own form,
to hold the model against. -/

namespace Sys2Proof.Machine

/-- Bit 7 is clear in every cell (R25). -/
def bit7Clear (a : Digits) : Prop :=
  a.units.getLsbD 7 = false ∧ a.tens.getLsbD 7 = false ∧ a.hundreds.getLsbD 7 = false

/-- The invariants R25 gives every state reached from reset, as far as one state shows them. The clause `idle` is what
R98 says of a block whose driver has not been used since reset. -/
structure Inv (s : State) : Prop where
  legal   : s.params.legal = true
  cursor  : s.block.cursor ≠ posNone
  sub     : s.block.sub < s.params.sampleDiv
  accCnt  : s.block.accCnt < s.params.window
  accSum  : s.block.accSum ≤ s.block.accCnt * 1023
  active  : bit7Clear s.block.active
  shadow  : bit7Clear s.block.shadow
  blank   : s.block.blankCnt ≤ s.params.blankCycles
  idle    : s.block.drvIdx = posNone →
              s.block.cursor = 0#2 ∧ s.block.sub = 0 ∧ s.block.due = false ∧ s.block.blankCnt = 0 ∧
              s.block.drvPat = 0x00#8 ∧ s.block.active = blankDigits

/-- Every counter fits the width 10_state.md gives its register (R13, R19, R20, R23). -/
def Block.fits (p : Params) (b : Block) : Prop :=
  b.sub < 2 ^ p.subW ∧ b.accSum < 2 ^ p.sumW ∧ b.accCnt < 2 ^ p.cntW ∧ b.blankCnt < 2 ^ p.blankW

/-- The word asserts rst in no cycle of the list. -/
def noReset (ws : List CycleWord) : Prop := ∀ w ∈ ws, evRst w = false

/-- The word asserts tick in no cycle of the list. -/
def noTick (ws : List CycleWord) : Prop := ∀ w ∈ ws, evTick w = false

/-- How many words of the list assert tick; with `noReset`, how many TICKs it performs. -/
def tickTotal (ws : List CycleWord) : Nat := ws.countP evTick

/-- How many TICKs the list performs after its last RESET (R40: RESET masks the tick of its cycle). -/
def ticksSinceReset (ws : List CycleWord) : Nat :=
  ws.foldl (fun n w => if evRst w then 0 else if evTick w then n + 1 else n) 0

/-- The samples the words of the list carry; with `noReset`, those ACC accepts. -/
def samplesOf (ws : List CycleWord) : List RawSample := (ws.filter evSample).map fieldSample

/-- Their sum. -/
def sampleTotal (ws : List CycleWord) : Nat := ((samplesOf ws).map BitVec.toNat).sum

/-- The machine run on the given cycle words, one a cycle. -/
def runWords (ws : List CycleWord) (s : State) : Result := Host.Core.run Sys2Proof.core ws.length (s.feed ws)

/-- The machine run for a number of steps on whatever the environment presents. -/
def runSteps (n : Nat) (s : State) : Result := Host.Core.run Sys2Proof.core n s

/-- Nothing is shown: no select line enabled and every segment off, at logical level (R72, R98). -/
def dark (b : Block) : Prop := selL b = 0b000#3 ∧ segL b = blankPattern

/-- TICK as R67 writes it, on a next state already holding the writes of the operations before it. Answers
(next state, due_set, swap_clear). -/
def pseudoTick (p : Params) (s s' : Block) : Block × Bool × Bool :=
  let c := s.cursor
  let swap := s.cursor == 0#2 && s.pending
  let a := if swap then s.shadow else s.active
  let s' := if swap then { s' with active := s.shadow } else s'
  let s' := { s' with drvIdx := c }
  let s' := { s' with drvPat := (cellAt a c).getD blankPattern ||| (if s.dpPos = c then 0x80#8 else 0x00#8) }
  let s' := { s' with blankCnt := p.blankCycles }
  let s' := { s' with cursor := if c = 2#2 then 0#2 else c + 1#2 }
  let n := s.sub + 1
  if n = p.sampleDiv then ({ s' with sub := 0 }, true, swap) else ({ s' with sub := n }, false, swap)

/-- SAMPLE with PUBLISH as R59 and R60 write them. Answers (next state, pub_set). -/
def pseudoSample (p : Params) (draw : Nat) (s s' : Block) (v : RawSample) : Block × Bool :=
  let sum1 := s.accSum + v.toNat
  if s.accCnt + 1 = p.window then
    let value := (sum1 >>> p.windowLog2) >>> p.scaleShift
    let s' := { s' with shadow := encodeDigits p draw value }
    ({ s' with accSum := 0, accCnt := 0 }, true)
  else ({ s' with accSum := sum1, accCnt := s.accCnt + 1 }, false)

/-- Step(s, W) as R82 writes it. `cellAt` answers BLANK here for the cell a cursor of code 3 does not have: claims
with this function take a legal cursor as a premise. -/
def pseudoStep (p : Params) (draw : Nat) (s : Block) (w : CycleWord) : Block :=
  if w.getLsbD 0 then Block.reset p
  else
    let s' := s
    let (s', dueSet, swapClear) :=
      if w.getLsbD 1 then pseudoTick p s s'
      else ({ s' with blankCnt := if s.blankCnt > 0 then s.blankCnt - 1 else 0 }, false, false)
    let (s', pubSet) :=
      if w.getLsbD 2 then pseudoSample p draw s s' (w.extractLsb' 5 10) else (s', false)
    let s' := { s' with due := if dueSet then true else if w.getLsbD 3 then false else s.due }
    let s' := { s' with pending := if pubSet then true else if swapClear then false else s.pending }
    if w.getLsbD 4 then { s' with dpPos := w.extractLsb' 15 2 } else s'

end Sys2Proof.Machine
end

