-- ==== Sys2Proof/Certificates/Slice0/Obligations.lean ====
section
/-! DEFINITION. The statements of this row, for the provers. The model's own choices among them name their log entry. -/

open Sys2Proof Sys2Proof.Machine

/-! ### Encoding -/

/-- O1. For every operation, decoding what encodes it gives it back, every operand at every value (R39 to R41, R54).
SAMPLE and PUBLISH have the same bits, so each is read back in the state that selects it. -/
def Obligations.DecodeOfEncodeIsTheOperation : Prop :=
  ∀ (windowEnd : Bool) (i : Instr), i.fitsWindow windowEnd = true →
    decodeInput windowEnd (encodeInstr i) = [i]

/-- O2. The same for every set of operations one cycle can perform, with or without a value presented to ENC (R40, R49,
R54). -/
def Obligations.DecodeOfEncodeIsTheCycle : Prop :=
  ∀ (windowEnd : Bool) (ops : List Instr), cycleWf windowEnd ops = true →
    decodeInput windowEnd (encodeInput ops) = ops

/-- O3. Every cycle word, with or without a value presented to ENC, performs a legal set of operations (R40, R48), and
encoding that set gives back the value and every bit of the word that a selected operation uses: the event bits, the
sample where SAMPLE is selected, dp_pos_in where DP_WRITE is, and rst alone where RESET is. -/
def Obligations.EveryCycleWordIsALegalCycle : Prop :=
  ∀ (windowEnd : Bool) (x : Input),
    let w := x.word
    cycleWf windowEnd (decodeInput windowEnd x) = true ∧
    encodeInput (decodeInput windowEnd x) =
      ⟨w &&& (if evRst w then 0x00001#17
              else 0x0001F#17 ||| (if evSample w then 0x07FE0#17 else 0#17) |||
                (if evDpWe w then 0x18000#17 else 0#17)),
       x.enc⟩

/-- O4. An operation is selected exactly when the word has its mask and match in the opcode table (R40), with the
operands of R41; PUBLISH in SAMPLE's place when the window ends; ENCODE by no cycle word, but by a value at ENC's own
input. That NOP, selected by a word without an event, is not listed beside ENCODE is the model's reading (log 6). -/
def Obligations.SelectionFollowsTheOpcodeTable : Prop :=
  ∀ (windowEnd : Bool) (x : Input),
    let w := x.word
    let ops := decodeInput windowEnd x
    (.reset ∈ ops ↔ w &&& 0x00001#17 = 0x00001#17) ∧
    (.tick ∈ ops ↔ w &&& 0x00003#17 = 0x00002#17) ∧
    (∀ v, .sample v ∈ ops ↔ w &&& 0x00005#17 = 0x00004#17 ∧ windowEnd = false ∧ v = w.extractLsb' 5 10) ∧
    (∀ v, .publish v ∈ ops ↔ w &&& 0x00005#17 = 0x00004#17 ∧ windowEnd = true ∧ v = w.extractLsb' 5 10) ∧
    (.dueAck ∈ ops ↔ w &&& 0x00009#17 = 0x00008#17) ∧
    (∀ d, .dpWrite d ∈ ops ↔ w &&& 0x00011#17 = 0x00010#17 ∧ d = w.extractLsb' 15 2) ∧
    (.nop ∈ selectedOps windowEnd w ↔ w &&& 0x0001F#17 = 0x00000#17) ∧
    (.nop ∈ ops ↔ w &&& 0x0001F#17 = 0x00000#17 ∧ x.enc = none) ∧
    (∀ v, .encode v ∈ ops ↔ x.enc = some v)

/-- O5. Words the spec writes out (R49 and 95_test_vectors.md), decoded. -/
def Obligations.WrittenOutWordsDecode : Prop :=
  selectedOps false 0x000A7#17 = [.reset] ∧
  selectedOps false 0x00002#17 = [.tick] ∧
  selectedOps false 0x0000A#17 = [.tick, .dueAck] ∧
  selectedOps false 0x00C86#17 = [.tick, .sample 100#10] ∧
  selectedOps true  0x07FE4#17 = [.publish 1023#10] ∧
  selectedOps false 0x00008#17 = [.dueAck] ∧
  selectedOps false 0x08010#17 = [.dpWrite 1#2] ∧
  selectedOps false 0x18012#17 = [.tick, .dpWrite 3#2] ∧
  selectedOps false 0x0014E#17 = [.tick, .sample 10#10, .dueAck] ∧
  selectedOps false 0x00000#17 = [.nop] ∧
  decodeInput false (.comb 105#10) = [.encode 105#10] ∧
  decodeInput false ⟨0x0000A#17, some 105#10⟩ = [.tick, .dueAck, .encode 105#10]

/-! ### The step -/

/-- O6. A step is the clock cycle of the operations its next input selects, in the state with that input taken; where it
selects one operation, the step is that operation's meaning. -/
def Obligations.StepRunsTheDecodedOperation : Prop :=
  ∀ (s : State) (x : Input) (rest : List Input), s.params.legal = true → s.inputs = x :: rest →
    let ops := decodeInput (windowEnds s.params s.block) x
    step s = .next (State.cycle { s with inputs := rest } ops) ∧
    ∀ i, ops = [i] → step s = exec i { s with inputs := rest }

/-- O7. The step is Step(s, W) of R82 on the block, for every input, whatever is presented to ENC, and every legal cursor;
the value presented, if there is one, is then the one at ENC's input. -/
def Obligations.StepFollowsThePseudocode : Prop :=
  ∀ (s : State) (x : Input) (rest : List Input),
    s.params.legal = true → s.block.cursor ≠ posNone → s.inputs = x :: rest →
    step s = .next { s with
      block := pseudoStep s.params s.steps s.block x.word
      enc   := match x.enc with | none => s.enc | some v => ⟨v, s.steps⟩
      inputs := rest, steps := s.steps + 1 }

/-- O8. The order in which the operations of a cycle are listed does not matter (R80, R82, R90). -/
def Obligations.OrderWithinACycleDoesNotMatter : Prop :=
  ∀ (s : State) (ops ops' : List Instr),
    cycleWf (windowEnds s.params s.block) ops = true → ops'.Perm ops → s.cycle ops' = s.cycle ops

/-- O9. Where nothing is placed, the step takes a free input of the environment (R3, R84). The queue of placed inputs
and the free value are the model's form of it (log 4). -/
def Obligations.StepWithNothingPlacedTakesAFreeInput : Prop :=
  ∀ s : State, s.inputs = [] →
    step s = step { s with inputs := [Config.envInput s.steps] }

/-- O10. A parameter set that breaks a condition of R7 (with the table constraints of R52) is refused by the step, that
it is the step that refuses being the model's reading (log 10). Under any other set the step goes on (R82, R85), and
every sum of a window gives a Display Value of at most 511. -/
def Obligations.IllegalParameterSetIsRefused : Prop :=
  ∀ s : State,
    let p := s.params
    let cond : Prop :=
      p.window = 2 ^ p.windowLog2 ∧ 1 ≤ p.windowLog2 ∧ 1 ≤ p.sampleDiv ∧ (10 : Int) - p.scaleShift ≤ 9 ∧
      (∀ d : Fin 10, p.segLut[d].getLsbD 7 = false) ∧ (∀ d : Fin 10, p.segLut[d] ≠ blankPattern) ∧
      (∀ d e : Fin 10, p.segLut[d] = p.segLut[e] → d = e)
    (¬ cond → step s = .refused .illegalParams) ∧
    (cond → (∃ t, step s = .next t) ∧ ∀ sum1 ≤ p.window * 1023, displayValue p sum1 ≤ 511)

/-- O11. Every input in every state has a next state: the block raises no fault, and the model refuses nothing but an
illegal parameter set (R85, R82, R7). -/
def Obligations.EveryStepOfALegalBlockHasANextState : Prop :=
  ∀ s : State, s.params.legal = true → ∃ t, step s = .next t ∧ t.steps = s.steps + 1 ∧ t.inputs = s.inputs.tail

/-- O12. No operation and no step changes a parameter (R24). That the state carries them is the model's form (log 1). -/
def Obligations.ParametersNeverChange : Prop :=
  (∀ (i : Instr) (s t : State), exec i s = .next t → t.params = s.params) ∧
  (∀ s t : State, step s = .next t → t.params = s.params)

/-! ### One operation alone: what it writes, and its frame -/

/-- O13. RESET writes the reset state, field by field (R96), in every state. -/
def Obligations.ResetWritesTheResetState : Prop :=
  ∀ s : State, exec .reset s = .next { s with
    steps := s.steps + 1
    block :=
      { cursor := 0#2, sub := 0, due := false
        active := ⟨0x00#8, 0x00#8, 0x00#8⟩, shadow := ⟨0x00#8, 0x00#8, 0x00#8⟩, pending := false
        dpPos := s.params.dpReset, accSum := 0, accCnt := 0
        drvIdx := 3#2, drvPat := 0x00#8, blankCnt := 0 } }

/-- O14. TICK (R67 to R72), alone in its cycle, from a cursor of 0, 1 or 2. -/
def Obligations.TickDrivesAdvancesAndCounts : Prop :=
  ∀ s : State, s.block.cursor ≠ posNone →
    let b := s.block
    let swap := b.cursor = 0#2 ∧ b.pending = true
    let a := if swap then b.shadow else b.active
    exec .tick s = .next { s with
      steps := s.steps + 1
      block := { b with
        active   := a
        pending  := if swap then false else b.pending
        drvIdx   := b.cursor
        drvPat   := (if b.cursor = 0#2 then a.units else if b.cursor = 1#2 then a.tens else a.hundreds) |||
                      (if b.dpPos = b.cursor then 0x80#8 else 0x00#8)
        blankCnt := s.params.blankCycles
        cursor   := if b.cursor = 2#2 then 0#2 else b.cursor + 1#2
        sub      := if b.sub + 1 = s.params.sampleDiv then 0 else b.sub + 1
        due      := if b.sub + 1 = s.params.sampleDiv then true else b.due } }

/-- O15. TICK from the unreachable cursor code 3 (R12, U13): the pattern latched and the next cursor are free values,
everything else is as R67 says. That it runs on, with free values, is the model's choice (log 3). -/
def Obligations.TickFromCursorCodeThreeRunsWithFreeValues : Prop :=
  ∀ s : State, s.block.cursor = posNone →
    exec .tick s = .next { s with
      steps := s.steps + 1
      block := { s.block with
        drvIdx   := posNone
        drvPat   := Config.freePattern s.steps 3
        blankCnt := s.params.blankCycles
        cursor   := Config.freeCode s.steps
        sub      := if s.block.sub + 1 = s.params.sampleDiv then 0 else s.block.sub + 1
        due      := if s.block.sub + 1 = s.params.sampleDiv then true else s.block.due } }

/-- O16. SAMPLE (R59), alone in its cycle: it adds and counts, and the one that completes the window publishes and
zeroes (R60, R61). -/
def Obligations.SampleAddsCountsAndPublishes : Prop :=
  ∀ (s : State) (v : RawSample),
    exec (.sample v) s = .next { s with
      steps := s.steps + 1
      block :=
        if s.block.accCnt + 1 = s.params.window then
          { s.block with
            shadow   := encodeDigits s.params s.steps
                          (((s.block.accSum + v.toNat) >>> s.params.windowLog2) >>> s.params.scaleShift)
            pending  := true, accSum := 0, accCnt := 0
            blankCnt := s.block.blankCnt - 1 }
        else
          { s.block with
            accSum   := s.block.accSum + v.toNat, accCnt := s.block.accCnt + 1
            blankCnt := s.block.blankCnt - 1 } }

/-- O17. PUBLISH (R60): in the state that selects it, acc_cnt = WINDOW-1, the sum with the completing sample is scaled,
encoded and put in shadow, and pending is set; the SAMPLE it is part of zeroes the accumulator (R59). Elsewhere its bits
are a SAMPLE that publishes nothing (R63; the model's reading, log 7). -/
def Obligations.PublishWritesShadowAndPending : Prop :=
  ∀ (s : State) (v : RawSample),
    (s.block.accCnt + 1 = s.params.window →
      exec (.publish v) s = .next { s with
        steps := s.steps + 1
        block := { s.block with
          shadow   := encodeDigits s.params s.steps
                        (((s.block.accSum + v.toNat) >>> s.params.windowLog2) >>> s.params.scaleShift)
          pending  := true, accSum := 0, accCnt := 0
          blankCnt := s.block.blankCnt - 1 } }) ∧
    (s.block.accCnt + 1 ≠ s.params.window →
      exec (.publish v) s = .next { s with
        steps := s.steps + 1
        block := { s.block with
          accSum   := s.block.accSum + v.toNat, accCnt := s.block.accCnt + 1
          blankCnt := s.block.blankCnt - 1 } })

/-- O18. DUE_ACK and DP_WRITE and NOP, each alone in its cycle, write due, dp_pos and nothing (R75 to R77); blank_cnt
counts down in every cycle without TICK (R72). -/
def Obligations.AckDpWriteAndNopWriteTheirFieldOnly : Prop :=
  ∀ (s : State) (d : PosCode),
    exec .dueAck s = .next { s with
      steps := s.steps + 1, block := { s.block with due := false, blankCnt := s.block.blankCnt - 1 } } ∧
    exec (.dpWrite d) s = .next { s with
      steps := s.steps + 1, block := { s.block with dpPos := d, blankCnt := s.block.blankCnt - 1 } } ∧
    exec .nop s = .next { s with
      steps := s.steps + 1, block := { s.block with blankCnt := s.block.blankCnt - 1 } }

/-- O19. ENCODE (R54), alone in its cycle: it writes no state of the block, whose cycle is that of a word without events
(R72 counts blank_cnt down), and ENC's outputs are those of the value at its input. For 1000 or more they are free
(R55). The input line in the state is the model's form (log 6). -/
def Obligations.EncodePresentsItsValueAndWritesNoState : Prop :=
  ∀ (s : State) (v : EncValue), ∃ t : State,
    exec (.encode v) s = .next t ∧
    t = { s with
      steps := s.steps + 1, enc := ⟨v, s.steps⟩, block := { s.block with blankCnt := s.block.blankCnt - 1 } } ∧
    (v.toNat ≤ 999 → t.encOut =
      ⟨lut s.params (v.toNat % 10),
       if v.toNat / 100 = 0 ∧ (v.toNat / 10) % 10 = 0 then blankPattern else lut s.params ((v.toNat / 10) % 10),
       if v.toNat / 100 = 0 then blankPattern else lut s.params (v.toNat / 100)⟩) ∧
    (1000 ≤ v.toNat → t.encOut = freeDigits s.steps)

/-! ### One cycle, whatever else it selects -/

/-- O20. RESET dominates (R95): every word with W[0] = 1, whatever its other bits, gives the reset state, and RESET in
consecutive cycles keeps it. -/
def Obligations.ResetDominatesItsCycle : Prop :=
  ∀ (s : State) (w w' : CycleWord), s.params.legal = true →
    w &&& 0x00001#17 = 0x00001#17 → w' &&& 0x00001#17 = 0x00001#17 →
    ∃ t u, step (s.feed [w]) = .next t ∧ t.block = Block.reset s.params ∧ t.inputs = s.inputs ∧
      step (t.feed [w']) = .next u ∧ u.block = t.block

/-- O21. DUE_ACK in any cycle without RESET (R75): due is cleared unless the TICK of the same cycle raises it; a cycle
of DUE_ACK alone changes nothing but due and the blanking counter, whatever its operand bits. -/
def Obligations.DueAckClearsUnlessRaised : Prop :=
  ∀ (s : State) (w : CycleWord), s.params.legal = true → w &&& 0x00009#17 = 0x00008#17 →
    ∃ t, step (s.feed [w]) = .next t ∧
      (t.block.due = true ↔ w.getLsbD 1 = true ∧ s.block.sub + 1 = s.params.sampleDiv) ∧
      (w &&& 0x0001F#17 = 0x00008#17 →
        t.block = { s.block with due := false, blankCnt := s.block.blankCnt - 1 })

/-- O22. DP_WRITE in any cycle without RESET (R76): dp_pos takes W[16:15]; a TICK of the same cycle uses the old
dp_pos; without one the latched pattern keeps its old decimal point; a cycle of DP_WRITE alone changes nothing but
dp_pos and the blanking counter; after NONE the next TICK adds no decimal point. -/
def Obligations.DpWriteSetsThePositionForLaterTicks : Prop :=
  ∀ (s : State) (w : CycleWord), s.params.legal = true → w &&& 0x00011#17 = 0x00010#17 →
    ∃ t, step (s.feed [w]) = .next t ∧
      t.block.dpPos = w.extractLsb' 15 2 ∧
      (w.getLsbD 1 = true → ∀ q, cellAt (shownDigits s.block) s.block.cursor = some q →
        t.block.drvPat = q ||| (if s.block.dpPos = s.block.cursor then 0x80#8 else 0x00#8)) ∧
      (w.getLsbD 1 = false → t.block.drvPat = s.block.drvPat) ∧
      (w &&& 0x0001F#17 = 0x00010#17 →
        t.block = { s.block with dpPos := w.extractLsb' 15 2, blankCnt := s.block.blankCnt - 1 }) ∧
      (w.extractLsb' 15 2 = 3#2 → ∀ q, cellAt (shownDigits t.block) t.block.cursor = some q →
        ∃ u, exec .tick t = .next u ∧ u.block.drvPat = q)

/-- O23. NOP (R77): a word with no event bit, whatever its operand bits, only counts blank_cnt down; and blank_cnt
counts down in every cycle without TICK and RESET, whatever else is selected. -/
def Obligations.NopOnlyCountsBlankingDown : Prop :=
  ∀ (s : State) (w : CycleWord), s.params.legal = true →
    (w &&& 0x0001F#17 = 0x00000#17 →
      step (s.feed [w]) = .next { s with
        steps := s.steps + 1
        block := { s.block with blankCnt := if s.block.blankCnt > 0 then s.block.blankCnt - 1 else 0 } }) ∧
    (w &&& 0x00003#17 = 0x00000#17 →
      ∃ t, step (s.feed [w]) = .next t ∧
        t.block.blankCnt = if s.block.blankCnt > 0 then s.block.blankCnt - 1 else 0)

/-- O24. A set and a clear of one cycle (R37, R81): a raise wins over an acknowledge, and a publish over the frame
swap, which copies the pre-state shadow. -/
def Obligations.SetWinsOverClear : Prop :=
  ∀ (s : State) (w : CycleWord), s.params.legal = true → evRst w = false → evTick w = true →
    ∃ t, step (s.feed [w]) = .next t ∧
      (s.block.sub + 1 = s.params.sampleDiv → t.block.due = true) ∧
      (evSample w = true → s.block.accCnt + 1 = s.params.window → t.block.pending = true ∧
        (s.block.cursor = 0#2 → s.block.pending = true → t.block.active = s.block.shadow)) ∧
      (evSample w = false → s.block.cursor = 0#2 → s.block.pending = true →
        t.block.pending = false ∧ t.block.active = s.block.shadow ∧ t.block.shadow = s.block.shadow)

/-- O25. Only the operations the table of 10_state.md section 1 names write a field (R10, R12 to R23). -/
def Obligations.OnlyTheNamedOperationsWriteAField : Prop :=
  ∀ (s : State) (w : CycleWord), s.params.legal = true → evRst w = false →
    ∃ t, step (s.feed [w]) = .next t ∧
      (evTick w = false →
        t.block.cursor = s.block.cursor ∧ t.block.sub = s.block.sub ∧ t.block.drvIdx = s.block.drvIdx ∧
        t.block.drvPat = s.block.drvPat ∧ (t.block.due = true → s.block.due = true) ∧
        (s.block.pending = true → t.block.pending = true)) ∧
      (t.block.active ≠ s.block.active → evTick w = true ∧ s.block.cursor = 0#2 ∧ s.block.pending = true) ∧
      (¬ (evSample w = true ∧ s.block.accCnt + 1 = s.params.window) →
        t.block.shadow = s.block.shadow ∧ (t.block.pending = true → s.block.pending = true)) ∧
      (evSample w = false → t.block.accSum = s.block.accSum ∧ t.block.accCnt = s.block.accCnt) ∧
      (evAck w = false → s.block.due = true → t.block.due = true) ∧
      (evDpWe w = false → t.block.dpPos = s.block.dpPos) ∧
      t.enc = s.enc

/-- O26. The operand bits of a strobe that is 0, and every operand bit of a RESET cycle, are ignored (R41, R95): two
words with the same event bits, and the same operands where they are used, make the same step. -/
def Obligations.UnusedOperandBitsAreIgnored : Prop :=
  ∀ (s : State) (w w' : CycleWord),
    w &&& 0x0001F#17 = w' &&& 0x0001F#17 →
    (evRst w = false → evSample w = true → fieldSample w = fieldSample w') →
    (evRst w = false → evDpWe w = true → fieldDp w = fieldDp w') →
    step (s.feed [w]) = step (s.feed [w'])

/-- O27. RESET, DUE_ACK and DP_WRITE done twice in a row leave what doing them once leaves (R34), apart from blank_cnt,
which R72 counts down in every cycle without TICK (log 8). -/
def Obligations.ResetAckAndDpWriteAreIdempotent : Prop :=
  ∀ (s : State) (i : Instr), i = .reset ∨ i = .dueAck ∨ (∃ d, i = .dpWrite d) →
    ∃ t u, exec i s = .next t ∧ exec i t = .next u ∧
      u.block = { t.block with blankCnt := t.block.blankCnt - 1 }

/-! ### Outputs -/

/-- O28. The electrical level of an output is its logical level XOR its polarity (R47). -/
def Obligations.PinsAreLogicalLevelsXorPolarity : Prop :=
  ∀ s : State,
    s.outputs.seg = segL s.block ^^^ (if s.params.segActiveLow then 0xFF#8 else 0x00#8) ∧
    s.outputs.sel = selL s.block ^^^ (if s.params.selActiveLow then 0b111#3 else 0b000#3) ∧
    s.outputs.due = s.block.due

/-- O29. In every state at most one select line is enabled, and then the segments are the pattern latched with that
digit; with none enabled the segments are off. After the first tick since reset exactly one is enabled unless
blank_cnt > 0 (R46, R73, R74). -/
def Obligations.AtMostOneDigitIsSelected : Prop :=
  (∀ b : Block,
    (selL b = 0b000#3 ∧ segL b = blankPattern) ∨
    (∃ c, (c = 0#2 ∨ c = 1#2 ∨ c = 2#2) ∧ selL b = 1#3 <<< c.toNat ∧ b.drvIdx = c ∧ segL b = b.drvPat ∧
      b.blankCnt = 0)) ∧
  (∀ (s : State) (w0 : CycleWord) (ws : List CycleWord), s.params.legal = true → evRst w0 = true →
    ∃ t, runWords (w0 :: ws) s = .next t ∧
      (1 ≤ ticksSinceReset ws → t.block.blankCnt = 0 → selL t.block ≠ 0b000#3))

/-! ### ENC and the arithmetic of ACC -/

/-- O30. The properties of ENCODE (R56) for every legal table and every value in [0,999]; no output drives bit 7
(R42, R52). -/
def Obligations.EncodeBlanksExactlyTheLeadingZeros : Prop :=
  ∀ (p : Params) (draw v : Nat), p.lutLegal = true → v ≤ 999 →
    (encodeDigits p draw v).units ≠ blankPattern ∧
    ((encodeDigits p draw v).hundreds = blankPattern ↔ v < 100) ∧
    ((encodeDigits p draw v).tens = blankPattern ↔ v < 10) ∧
    bit7Clear (encodeDigits p draw v)

/-- O31. Decoding a displayed pattern back to digits recovers the value (R57), for every legal table. -/
def Obligations.DecodingTheDisplayRecoversTheValue : Prop :=
  ∀ (p : Params) (draw v : Nat), p.lutLegal = true → v ≤ 999 →
    valueOfDigits p (encodeDigits p draw v) = some v

/-- O32. The Display Value (R61): the two truncating shifts are one shift and one floor division; under legal parameters
a sum of one window gives a value that fits VAL_W bits and is within ENC's contract, whatever the table. For SCALE_SHIFT
above 10 the width clause takes VAL_W as 0, which is the model's reading (log 13). -/
def Obligations.DisplayValueIsTheScaledMean : Prop :=
  ∀ (p : Params) (sum1 : Nat), p.legal = true →
    displayValue p sum1 = sum1 >>> (p.windowLog2 + p.scaleShift) ∧
    displayValue p sum1 = sum1 / p.window / 2 ^ p.scaleShift ∧
    (sum1 ≤ p.window * 1023 → displayValue p sum1 < 2 ^ p.valW ∧ displayValue p sum1 ≤ 999)

/-! ### Runs -/

/-- O33. The invariant of R25 holds right after reset, for every legal parameter set and for the fixed reset state. -/
def Obligations.ResetStateMeetsTheInvariant : Prop :=
  Inv State.reset ∧ ∀ p : Params, p.legal = true → Inv (State.resetWith p)

/-- O34. Every step, on whatever the environment presents, keeps the invariant of R25. -/
def Obligations.EveryStepKeepsTheInvariant : Prop :=
  ∀ s t : State, Inv s → step s = .next t → Inv t

/-- O35. No counter outgrows its register, and no sum overflows SUM_W (R8, R62). -/
def Obligations.CountersFitTheirRegisters : Prop :=
  ∀ s : State, Inv s → s.block.fits s.params ∧
    (∀ v : RawSample, sumWith s.block v < 2 ^ s.params.sumW ∧ sumWith s.block v ≤ s.params.window * 1023)

/-- O36. After k ticks from reset the cursor is k mod 3, and the k-th tick drives position (k-1) mod 3 (R70); before
the first tick no digit is driven (R21). -/
def Obligations.CursorCountsTicksModuloThree : Prop :=
  ∀ (s : State) (w0 : CycleWord) (ws : List CycleWord), s.params.legal = true → evRst w0 = true →
    ∃ t, runWords (w0 :: ws) s = .next t ∧
      t.block.cursor.toNat = ticksSinceReset ws % 3 ∧
      (ticksSinceReset ws = 0 ↔ t.block.drvIdx = posNone) ∧
      (1 ≤ ticksSinceReset ws → t.block.drvIdx.toNat = (ticksSinceReset ws - 1) % 3)

/-- O37. The sub-counter is the number of ticks modulo SAMPLE_DIV, and due is raised at exactly the ticks with index
k·SAMPLE_DIV since reset, stays up until an acknowledge without a raise, and is not counted (R71, R78). -/
def Obligations.DueIsRaisedEverySampleDivTicks : Prop :=
  ∀ (s : State) (w0 : CycleWord) (ws : List CycleWord), s.params.legal = true → evRst w0 = true →
    ∃ t, runWords (w0 :: ws) s = .next t ∧
      t.block.sub = ticksSinceReset ws % s.params.sampleDiv ∧
      ∀ w, evRst w = false → ∃ u, step (t.feed [w]) = .next u ∧
        (u.block.due = true ↔
          (evTick w = true ∧ (ticksSinceReset ws + 1) % s.params.sampleDiv = 0) ∨
          (t.block.due = true ∧ evAck w = false))

/-- O38. No frame mixes two generations (R33, R68): whatever else happens, the three ticks that start at a tick with
cursor 0 latch the cells of one buffer, in order. -/
def Obligations.AFrameShowsOneGeneration : Prop :=
  ∀ (s : State) (w : CycleWord) (ws : List CycleWord),
    s.params.legal = true → s.block.cursor = 0#2 → evRst w = false → evTick w = true →
    noReset ws → tickTotal ws ≤ 2 →
    let g := if s.block.pending then s.block.shadow else s.block.active
    ∃ t, runWords (w :: ws) s = .next t ∧ t.block.active = g ∧
      t.block.drvIdx.toNat = tickTotal ws ∧
      ∃ q, cellAt g t.block.drvIdx = some q ∧ t.block.drvPat &&& 0x7F#8 = q &&& 0x7F#8

/-- O39. A window of exactly WINDOW samples publishes its scaled mean and zeroes the accumulator (R59 to R63), whatever
other operations but RESET share its cycles. -/
def Obligations.AFullWindowPublishesItsMean : Prop :=
  ∀ (s : State) (ws : List CycleWord) (w : CycleWord),
    s.params.legal = true → s.block.accCnt = 0 → s.block.accSum = 0 →
    noReset (ws ++ [w]) → evSample w = true → (samplesOf (ws ++ [w])).length = s.params.window →
    ∃ t, runWords (ws ++ [w]) s = .next t ∧
      t.block.shadow =
        digitsOf s.params ((sampleTotal (ws ++ [w]) >>> s.params.windowLog2) >>> s.params.scaleShift) ∧
      t.block.pending = true ∧ t.block.accSum = 0 ∧ t.block.accCnt = 0

/-- O40. Fewer samples than the window lacks publish nothing: shadow is unchanged, pending is not set, active comes from
a buffer there was, and the accumulator holds the sum and the count (R63). -/
def Obligations.AnUnfinishedWindowPublishesNothing : Prop :=
  ∀ (s : State) (ws : List CycleWord),
    s.params.legal = true → noReset ws → s.block.accCnt + (samplesOf ws).length < s.params.window →
    ∃ t, runWords ws s = .next t ∧
      t.block.shadow = s.block.shadow ∧ (t.block.pending = true → s.block.pending = true) ∧
      (t.block.active = s.block.active ∨ (s.block.pending = true ∧ t.block.active = s.block.shadow)) ∧
      t.block.accSum = s.block.accSum + sampleTotal ws ∧
      t.block.accCnt = s.block.accCnt + (samplesOf ws).length

/-- O41. A tick blanks the display for BLANK_CYCLES cycles, and from then until the next tick the digit it latched is
shown (R72, R73, R100). -/
def Obligations.ATickBlanksThenShowsItsDigit : Prop :=
  ∀ (s : State) (w : CycleWord) (ws : List CycleWord) (q : Pattern),
    s.params.legal = true → evRst w = false → evTick w = true → noTick ws → noReset ws →
    cellAt (shownDigits s.block) s.block.cursor = some q →
    ∃ t, runWords (w :: ws) s = .next t ∧
      (ws.length < s.params.blankCycles → dark t.block) ∧
      (s.params.blankCycles ≤ ws.length →
        selL t.block = onehot3 s.block.cursor ∧
        segL t.block = q ||| (if s.block.dpPos = s.block.cursor then dpMask else 0x00#8))

/-- O42. From reset the display is dark up to and including the blanking after the first tick, whatever ticks and other
operations fall in that time; with no second tick, position 0 is selected after it, the first digit shown; and due is 0
until the SAMPLE_DIV-th tick (R98, R100). -/
def Obligations.DarkFromResetToTheFirstDigit : Prop :=
  ∀ (s : State) (w0 : CycleWord) (ws : List CycleWord),
    s.params.legal = true → evRst w0 = true → noReset ws →
    ∃ t, runWords (w0 :: ws) s = .next t ∧
      (noTick ws → dark t.block) ∧
      (∀ ws1 w ws2, ws = ws1 ++ w :: ws2 → noTick ws1 → evTick w = true →
        (ws2.length < s.params.blankCycles → dark t.block) ∧
        (noTick ws2 → s.params.blankCycles ≤ ws2.length → selL t.block = 0b001#3)) ∧
      (tickTotal ws < s.params.sampleDiv → t.block.due = false)

/-- O43. What the driver shows was latched at the last tick: the position that tick's cursor named, a cell of active or
of shadow as they stood then, and the decimal point exactly if dp_pos named that position then (R25, R69). -/
def Obligations.TheDriverHoldsWhatTheLastTickLatched : Prop :=
  ∀ (s : State) (w0 w : CycleWord) (ws1 ws2 : List CycleWord),
    s.params.legal = true → evRst w0 = true → evRst w = false → evTick w = true → noTick ws2 → noReset ws2 →
    ∃ t1 t, runWords (w0 :: ws1) s = .next t1 ∧ runWords (w0 :: (ws1 ++ w :: ws2)) s = .next t ∧
      t.block.drvIdx = t1.block.cursor ∧ t.block.drvIdx ≠ posNone ∧
      (∃ q, (cellAt t1.block.active t.block.drvIdx = some q ∨ cellAt t1.block.shadow t.block.drvIdx = some q) ∧
        t.block.drvPat &&& 0x7F#8 = q) ∧
      (t.block.drvPat.getLsbD 7 = true ↔ t1.block.dpPos = t.block.drvIdx)

/-- O44. A published generation reaches the display within three ticks (R101): from a pending generation and no further
publish, the first tick that finds cursor 0, after (3 - cursor) mod 3 other ticks, copies shadow into active, clears
pending and latches the units cell of that generation with its decimal point; with no tick in the BLANK_CYCLES cycles
after it, that cell is then on the lines; and the generation stays in active over the ticks that follow. -/
def Obligations.APublishedGenerationIsShownWithinThreeTicks : Prop :=
  ∀ (s : State) (ws : List CycleWord),
    s.params.legal = true → s.block.cursor ≠ posNone → s.block.pending = true → noReset ws →
    s.block.accCnt + (samplesOf ws).length < s.params.window → 3 ≤ tickTotal ws →
    ∃ ws1 w ws2 t1 t2 t, ws = ws1 ++ w :: ws2 ∧ evTick w = true ∧
      tickTotal ws1 = (3 - s.block.cursor.toNat) % 3 ∧
      runWords ws1 s = .next t1 ∧ t1.block.cursor = 0#2 ∧ t1.block.pending = true ∧
      t1.block.active = s.block.active ∧ t1.block.shadow = s.block.shadow ∧
      (let q := s.block.shadow.units ||| (if t1.block.dpPos = 0#2 then dpMask else 0x00#8)
       runWords (ws1 ++ [w]) s = .next t2 ∧ t2.block.active = s.block.shadow ∧ t2.block.pending = false ∧
       t2.block.drvIdx = 0#2 ∧ t2.block.drvPat = q ∧
       ∀ ws3, noTick ws3 → noReset ws3 → s.params.blankCycles ≤ ws3.length →
         ∃ t3, runWords (ws1 ++ w :: ws3) s = .next t3 ∧ selL t3.block = 0b001#3 ∧ segL t3.block = q) ∧
      runWords ws s = .next t ∧ t.block.active = s.block.shadow ∧ t.block.pending = false

/-- O45. Between ticks the display and the sequencing hold still, whatever is sampled, acknowledged, written or
published (R21, R22, R69): only blank_cnt counts down. -/
def Obligations.BetweenTicksTheDisplayHolds : Prop :=
  ∀ (s : State) (ws : List CycleWord), s.params.legal = true → noTick ws → noReset ws →
    ∃ t, runWords ws s = .next t ∧
      t.block.drvIdx = s.block.drvIdx ∧ t.block.drvPat = s.block.drvPat ∧ t.block.active = s.block.active ∧
      t.block.cursor = s.block.cursor ∧ t.block.sub = s.block.sub ∧
      t.block.blankCnt = s.block.blankCnt - ws.length

/-- O46. The partial sum of an unfinished window cannot be observed (R27, R63): two blocks that differ in acc_sum only
give the same outputs, cycle by cycle, as long as the window is not completed. -/
def Obligations.AnUnfinishedSumIsNotObservable : Prop :=
  ∀ (s : State) (x : Nat) (ws : List CycleWord),
    s.params.legal = true → noReset ws → s.block.accCnt + (samplesOf ws).length < s.params.window →
    observe ws.length (s.feed ws) =
      observe ws.length ((State.feed { s with block := { s.block with accSum := x } }) ws)

/-- O47. The pseudo-instructions stand for the words R49 gives them: `WINDOW v` is WINDOW cycles that each select SAMPLE
of v alone, `FRAME` is three times a TICK and then BLANK_CYCLES cycles of NOP. -/
def Obligations.PseudoInstructionsExpandAsWritten : Prop :=
  ∀ (p : Params) (v : RawSample),
    (expandLine p (.window v)).length = p.window ∧
    (∀ w ∈ expandLine p (.window v), selectedOps false w = [.sample v]) ∧
    (expandLine p .frame).length = 3 * (1 + p.blankCycles) ∧
    (∀ i < 3 * (1 + p.blankCycles), ((expandLine p .frame)[i]?).map (selectedOps false) =
      some (if i % (1 + p.blankCycles) = 0 then [.tick] else [.nop]))

/-- O48. From the reset state, a window of WINDOW equal samples followed by a FRAME is shown, at logical level: the
whole encoding of `v` scaled is in active, and after the blanking of the first, second and third tick the units, tens and
hundreds digit of it is on the lines (R59 to R61, R67, R68, R73). -/
def Obligations.AWindowThenAFrameShowsTheValue : Prop :=
  ∀ (p : Params) (v : RawSample), p.legal = true →
    let g := digitsOf p (v.toNat >>> p.scaleShift)
    let dp (c : PosCode) : Pattern := if p.dpReset = c then dpMask else 0x00#8
    let window := expandLine p (.window v)
    let digit := expandLine p .showDigit
    (∃ t, runWords (window ++ digit) (State.resetWith p) = .next t ∧
      t.block.active = g ∧ selL t.block = 0b001#3 ∧ segL t.block = g.units ||| dp 0#2) ∧
    (∃ t, runWords (window ++ (digit ++ digit)) (State.resetWith p) = .next t ∧
      t.block.active = g ∧ selL t.block = 0b010#3 ∧ segL t.block = g.tens ||| dp 1#2) ∧
    (∃ t, runWords (window ++ expandLine p .frame) (State.resetWith p) = .next t ∧
      t.block.active = g ∧ selL t.block = 0b100#3 ∧ segL t.block = g.hundreds ||| dp 2#2)

/-! ### One step, one clock cycle -/

/-- O49. What is presented to the standalone ENC does not touch the block (R50, R54): the step with it and the step
without it differ in ENC's line alone, and ENC's outputs in the cycle are those of the value then at its input. That the
line holds a value until another is presented is the model's form (log 6). -/
def Obligations.AValueAtEncDoesNotTouchTheBlock : Prop :=
  ∀ (s : State) (x : Input) (rest : List Input), s.params.legal = true → s.inputs = x :: rest →
    ∃ t u, step s = .next t ∧ step { s with inputs := .cyc x.word :: rest } = .next u ∧
      t = { u with enc := t.enc } ∧ u.enc = s.enc ∧ s.encNow = t.encOut ∧
      (x.enc = none → t.enc = s.enc) ∧ (∀ v, x.enc = some v → t.enc.value = v)

/-- O50. Each step is one cycle of the clock (R79), whatever is presented, so the observation of `n` steps is the outputs
of each of `n` cycles from its pre-state (R83). -/
def Obligations.EachStepIsOneObservedClockCycle : Prop :=
  ∀ (s : State) (n : Nat), s.params.legal = true →
    (observe n s).length = n ∧
    ∀ k < n, ∃ t, runSteps k s = .next t ∧ (observe n s)[k]? = some t.outputs ∧
      step t = .next (t.consume.clock (cycleWrites t.params t.steps t.block t.nextOps))
end

