-- ==== Sys2Proof/Laws/State.lean ====
section
/-! SUPPORT. What each update of the state leaves in each field, true by unfolding once, so that no later proof unfolds
a record update. -/

namespace Sys2Proof.Machine

@[simp] theorem State.clock_params (s : State) (x : Writes) : (s.clock x).params = s.params := rfl
@[simp] theorem State.clock_block (s : State) (x : Writes) :
    (s.clock x).block = s.block.commit s.params x := rfl
@[simp] theorem State.clock_enc (s : State) (x : Writes) : (s.clock x).enc = s.enc.next s.steps x.enc := rfl
@[simp] theorem State.clock_inputs (s : State) (x : Writes) : (s.clock x).inputs = s.inputs := rfl
@[simp] theorem State.clock_steps (s : State) (x : Writes) : (s.clock x).steps = s.steps + 1 := rfl

@[simp] theorem EncPort.next_none (e : EncPort) (k : Nat) : e.next k none = e := rfl
@[simp] theorem EncPort.next_some (e : EncPort) (k : Nat) (v : EncValue) : e.next k (some v) = ⟨v, k⟩ := rfl

@[simp] theorem State.cycle_params (s : State) (ops : List Instr) : (s.cycle ops).params = s.params := rfl
@[simp] theorem State.cycle_inputs (s : State) (ops : List Instr) : (s.cycle ops).inputs = s.inputs := rfl
@[simp] theorem State.cycle_steps (s : State) (ops : List Instr) : (s.cycle ops).steps = s.steps + 1 := rfl

@[simp] theorem State.consume_params (s : State) : s.consume.params = s.params := rfl
@[simp] theorem State.consume_block (s : State) : s.consume.block = s.block := rfl
@[simp] theorem State.consume_enc (s : State) : s.consume.enc = s.enc := rfl
@[simp] theorem State.consume_inputs (s : State) : s.consume.inputs = s.inputs.tail := rfl
@[simp] theorem State.consume_steps (s : State) : s.consume.steps = s.steps := rfl

@[simp] theorem State.feed_params (s : State) (ws : List CycleWord) : (s.feed ws).params = s.params := rfl
@[simp] theorem State.feed_block (s : State) (ws : List CycleWord) : (s.feed ws).block = s.block := rfl
@[simp] theorem State.feed_enc (s : State) (ws : List CycleWord) : (s.feed ws).enc = s.enc := rfl
@[simp] theorem State.feed_inputs (s : State) (ws : List CycleWord) :
    (s.feed ws).inputs = ws.map Input.cyc ++ s.inputs := rfl
@[simp] theorem State.feed_steps (s : State) (ws : List CycleWord) : (s.feed ws).steps = s.steps := rfl
@[simp] theorem State.feed_nil (s : State) : s.feed [] = s := rfl

@[simp] theorem State.afterWord_params (s : State) (w : CycleWord) : (s.afterWord w).params = s.params := rfl
@[simp] theorem State.afterWord_inputs (s : State) (w : CycleWord) : (s.afterWord w).inputs = s.inputs := rfl
@[simp] theorem State.afterWord_steps (s : State) (w : CycleWord) : (s.afterWord w).steps = s.steps + 1 := rfl

@[simp] theorem State.afterInput_params (s : State) (x : Input) : (s.afterInput x).params = s.params := rfl
@[simp] theorem State.afterInput_inputs (s : State) (x : Input) : (s.afterInput x).inputs = s.inputs := rfl
@[simp] theorem State.afterInput_steps (s : State) (x : Input) : (s.afterInput x).steps = s.steps + 1 := rfl

@[simp] theorem State.resetWith_params (p : Params) : (State.resetWith p).params = p := rfl
@[simp] theorem State.resetWith_block (p : Params) : (State.resetWith p).block = Block.reset p := rfl

@[simp] theorem Block.reset_cursor (p : Params) : (Block.reset p).cursor = 0#2 := rfl
@[simp] theorem Block.reset_sub (p : Params) : (Block.reset p).sub = 0 := rfl
@[simp] theorem Block.reset_due (p : Params) : (Block.reset p).due = false := rfl
@[simp] theorem Block.reset_active (p : Params) : (Block.reset p).active = blankDigits := rfl
@[simp] theorem Block.reset_shadow (p : Params) : (Block.reset p).shadow = blankDigits := rfl
@[simp] theorem Block.reset_pending (p : Params) : (Block.reset p).pending = false := rfl
@[simp] theorem Block.reset_dpPos (p : Params) : (Block.reset p).dpPos = p.dpReset := rfl
@[simp] theorem Block.reset_accSum (p : Params) : (Block.reset p).accSum = 0 := rfl
@[simp] theorem Block.reset_accCnt (p : Params) : (Block.reset p).accCnt = 0 := rfl
@[simp] theorem Block.reset_drvIdx (p : Params) : (Block.reset p).drvIdx = posNone := rfl
@[simp] theorem Block.reset_drvPat (p : Params) : (Block.reset p).drvPat = 0x00#8 := rfl
@[simp] theorem Block.reset_blankCnt (p : Params) : (Block.reset p).blankCnt = 0 := rfl

end Sys2Proof.Machine
end

