-- ==== Sys2Proof/Laws/Operands.lean ====
section
/-! SUPPORT. Position codes, buffer cells and the digit-to-segment table: what reading each can give. -/

namespace Sys2Proof.Machine

/-- A code other than NONE is one of the three positions. -/
theorem posCode_cases {c : PosCode} (h : c ≠ posNone) : c = 0#2 ∨ c = 1#2 ∨ c = 2#2 := by
  revert h; revert c; decide

theorem posCode_ne_none {c : PosCode} (h : c.toNat < 3) : c ≠ posNone := by
  revert h; revert c; decide

@[simp] theorem zero_ne_posNone : (0#2 : PosCode) ≠ posNone := by decide
@[simp] theorem one_ne_posNone : (1#2 : PosCode) ≠ posNone := by decide
@[simp] theorem two_ne_posNone : (2#2 : PosCode) ≠ posNone := by decide

@[simp] theorem cellAt_zero (a : Digits) : cellAt a 0#2 = some a.units := rfl
@[simp] theorem cellAt_one (a : Digits) : cellAt a 1#2 = some a.tens := rfl
@[simp] theorem cellAt_two (a : Digits) : cellAt a 2#2 = some a.hundreds := rfl
@[simp] theorem cellAt_none (a : Digits) : cellAt a posNone = none := rfl

/-- A position has a cell, and the code NONE has none. -/
theorem cellAt_of_ne_none (a : Digits) {c : PosCode} (h : c ≠ posNone) : ∃ q, cellAt a c = some q := by
  rcases posCode_cases h with rfl | rfl | rfl <;> simp

/-- A cell of a buffer whose cells have bit 7 clear has bit 7 clear. -/
theorem cellAt_bit7 {a : Digits} (h : bit7Clear a) {c : PosCode} {q : Pattern} (hq : cellAt a c = some q) :
    q.getLsbD 7 = false := by
  obtain ⟨hu, ht, hh⟩ := h
  unfold cellAt at hq
  split_ifs at hq <;> cases hq <;> assumption

theorem sampleOperand_le (v : RawSample) : sampleOperand v ≤ 1023 := by
  have := v.isLt; unfold sampleOperand; omega

/-- The table entry of a digit. -/
theorem lut_eq_getElem (p : Params) {d : Nat} (h : d < p.segLut.toList.length) :
    lut p d = p.segLut.toList[d] := by
  have h' : d < 10 := by simpa using h
  simp [lut, h']

theorem lut_mem (p : Params) {d : Nat} (h : d < 10) : lut p d ∈ p.segLut.toList := by
  rw [lut_eq_getElem p (by simpa using h)]; exact List.getElem_mem _

/-- What a legal table gives (R52): bit 7 clear, never BLANK, different digits different patterns. -/
theorem lut_bit7 {p : Params} (hl : p.lutLegal = true) {d : Nat} (h : d < 10) : (lut p d).getLsbD 7 = false := by
  simp only [Params.lutLegal, Bool.and_eq_true, List.all_eq_true] at hl
  simpa using hl.1.1 _ (lut_mem p h)

theorem lut_ne_blank {p : Params} (hl : p.lutLegal = true) {d : Nat} (h : d < 10) : lut p d ≠ blankPattern := by
  simp only [Params.lutLegal, Bool.and_eq_true, List.all_eq_true] at hl
  simpa using hl.1.2 _ (lut_mem p h)

theorem lut_inj {p : Params} (hl : p.lutLegal = true) {d e : Nat} (hd : d < 10) (he : e < 10)
    (h : lut p d = lut p e) : d = e := by
  simp only [Params.lutLegal, Bool.and_eq_true, decide_eq_true_eq] at hl
  rw [lut_eq_getElem p (by simpa using hd), lut_eq_getElem p (by simpa using he)] at h
  exact (List.Nodup.getElem_inj_iff hl.2).1 h

/-- What a legal parameter set gives (R7). -/
theorem legal_facts {p : Params} (h : p.legal = true) :
    p.window = 2 ^ p.windowLog2 ∧ 1 ≤ p.windowLog2 ∧ 1 ≤ p.sampleDiv ∧ 1 ≤ p.scaleShift ∧ p.lutLegal = true := by
  simp only [Params.legal, Bool.and_eq_true, decide_eq_true_eq, sampleW] at h
  exact ⟨h.1.1.1.1, h.1.1.1.2, h.1.1.2, by omega, h.2⟩

theorem window_pos {p : Params} (h : p.legal = true) : 0 < p.window := by
  rw [(legal_facts h).1]; positivity

end Sys2Proof.Machine
end

