-- ==== Sys2Proof/Laws/Acc.lean ====
section
/-! SUPPORT. The arithmetic of ACC and the two cases of SAMPLE. -/

namespace Sys2Proof.Machine

/-- The two shifts as floor divisions, under WINDOW = 2^WINDOW_LOG2. -/
theorem displayValue_eq_div {p : Params} (h : p.window = 2 ^ p.windowLog2) (sum1 : Nat) :
    displayValue p sum1 = sum1 / p.window / 2 ^ p.scaleShift := by
  simp [displayValue, meanOf, Nat.shiftRight_eq_div_pow, h]

/-- The mean of a window is at most the largest sample. -/
theorem displayValue_le_of_sum_le {p : Params} (h : p.window = 2 ^ p.windowLog2) {sum1 : Nat}
    (hs : sum1 ≤ p.window * 1023) : displayValue p sum1 ≤ 1023 / 2 ^ p.scaleShift := by
  rw [displayValue_eq_div h]
  exact Nat.div_le_div_right (Nat.div_le_of_le_mul hs)

theorem encodeDigits_of_le {p : Params} {draw v : Nat} (h : v ≤ 999) : encodeDigits p draw v = digitsOf p v := by
  simp [encodeDigits, h]

theorem encodeDigits_of_gt {p : Params} {draw v : Nat} (h : 999 < v) : encodeDigits p draw v = freeDigits draw := by
  simp [encodeDigits, Nat.not_le.2 h]

/-- What SAMPLE asks to be written where the window does not end. -/
theorem sampleWrites_of_not_ends {p : Params} {draw : Nat} {b : Block} {v : RawSample} (h : windowEnds p b = false) :
    sampleWrites p draw b v = { accSum := some (sumWith b v), accCnt := some (b.accCnt + 1) } := by
  simp [sampleWrites, h, accumulateWrites]

/-- What SAMPLE asks to be written where the window ends. -/
theorem sampleWrites_of_ends {p : Params} {draw : Nat} {b : Block} {v : RawSample} (h : windowEnds p b = true) :
    sampleWrites p draw b v =
      { shadow := some (encodeDigits p draw (displayValue p (sumWith b v))), pubSet := true
        accSum := some 0, accCnt := some 0 } := by
  simp [sampleWrites, h, publishWrites, closeWindowWrites, Writes.merge]

end Sys2Proof.Machine
end

