-- ==== Sys2Proof/Laws/Decode.lean ====
section
/-! SUPPORT. What a cycle word selects, by its event bits. -/

namespace Sys2Proof

theorem selectedOps_of_reset {we : Bool} {w : CycleWord} (h : evRst w = true) : selectedOps we w = [.reset] := by
  simp [selectedOps, eventOps, h]

theorem selectedOps_ne_nil (we : Bool) (w : CycleWord) : selectedOps we w ≠ [] := by
  unfold selectedOps; split <;> simp_all

/-- No event bit selects ENCODE. -/
theorem encValue_eventOps (we : Bool) (w : CycleWord) : (eventOps we w).findSome? Instr.encValue? = none := by
  cases we <;> cases h1 : evRst w <;> cases h2 : evTick w <;> cases h3 : evSample w <;> cases h4 : evAck w <;>
    cases h5 : evDpWe w <;> simp [eventOps, Instr.encValue?, *]

theorem encValue_selectedOps (we : Bool) (w : CycleWord) : (selectedOps we w).findSome? Instr.encValue? = none := by
  unfold selectedOps; split
  · rfl
  · exact encValue_eventOps we w

/-- The ENCODE of a cycle is the one its input presents. -/
theorem encValue_decodeInput (we : Bool) (x : Input) : (decodeInput we x).findSome? Instr.encValue? = x.enc := by
  unfold decodeInput; split
  · next h => rw [encValue_selectedOps, h]
  · next v h => simp [List.findSome?_append, encValue_eventOps, h, Instr.encValue?]

theorem encode_not_mem_selectedOps (we : Bool) (w : CycleWord) (v : EncValue) : .encode v ∉ selectedOps we w := by
  intro h
  exact absurd (List.findSome?_eq_none_iff.1 (encValue_selectedOps we w) _ h) (by simp [Instr.encValue?])

/-- The bits of an operation in its row's format present that operation. -/
theorem rowBits_present (i : Instr) : inputOfBits (instrFormat i) (rowBits i) = some (encodeInstr i) := by
  have hw : ∀ w : CycleWord, inputOfBits .cyc w.toNat = some (.cyc w) := fun w => by simp [inputOfBits, w.isLt]
  cases i with
  | encode v => simp [inputOfBits, instrFormat, rowBits, Instr.encValue?, encodeInstr, encodeWord, v.isLt]
  | _ => exact hw _

/-- The event bits of a word, read from its five low bits. -/
theorem evBits_of_mask (w w' : CycleWord) (h : w &&& 0x0001F#17 = w' &&& 0x0001F#17) :
    evRst w = evRst w' ∧ evTick w = evTick w' ∧ evSample w = evSample w' ∧ evAck w = evAck w' ∧
      evDpWe w = evDpWe w' := by
  have hb : ∀ i < 5, w.getLsbD i = w'.getLsbD i := by
    intro i hi
    have := congrArg (fun x : BitVec 17 => x.getLsbD i) h
    have h5 : (0x0001F#17).getLsbD i = true := by
      match i, hi with
      | 0, _ => rfl
      | 1, _ => rfl
      | 2, _ => rfl
      | 3, _ => rfl
      | 4, _ => rfl
    simpa [BitVec.getLsbD_and, h5] using this
  exact ⟨hb 0 (by decide), hb 1 (by decide), hb 2 (by decide), hb 3 (by decide), hb 4 (by decide)⟩

end Sys2Proof
end

