-- ==== Sys2Proof/Laws/Dmx.lean ====
section
/-! SUPPORT. The parts of TICK, and the two flags. -/

namespace Sys2Proof.Machine

theorem nextCursor_toNat (draw : Nat) {c : PosCode} (h : c.toNat < 3) :
    (nextCursor draw c).toNat = (c.toNat + 1) % 3 := by
  simp only [nextCursor, posCode_ne_none h, if_false]
  revert h; revert c; decide

/-- What TICK latches from a cell, with the decimal point of its position. -/
theorem drivePattern_of_cell {draw : Nat} {a : Digits} {dp c : PosCode} {q : Pattern} (h : cellAt a c = some q) :
    drivePattern draw a dp c = q ||| (if dp = c then dpMask else 0x00#8) := by
  simp [drivePattern, h]

/-- What TICK latches where the cursor names no cell: a free value. -/
theorem drivePattern_of_none (draw : Nat) (a : Digits) (dp : PosCode) :
    drivePattern draw a dp posNone = Config.freePattern draw 3 := by
  simp [drivePattern]

/-- The swap needs a cursor of 0 and a pending generation. -/
theorem swapFires_iff (b : Block) : swapFires b = true ↔ b.cursor = 0#2 ∧ b.pending = true := by
  simp [swapFires]

theorem nextDue_iff (set clear due : Bool) :
    nextDue set clear due = true ↔ set = true ∨ (clear = false ∧ due = true) := by
  cases set <;> cases clear <;> simp [nextDue]

theorem nextPending_iff (set clear pending : Bool) :
    nextPending set clear pending = true ↔ set = true ∨ (clear = false ∧ pending = true) := by
  cases set <;> cases clear <;> simp [nextPending]

end Sys2Proof.Machine
end

