-- ==== Sys2Proof/Laws/Ops.lean ====
section
/-! SUPPORT. The clock edge and the combination of writes: what each can do, said once. -/

namespace Sys2Proof.Machine

@[simp] theorem Writes.merge_empty (x : Writes) : x.merge {} = x := by
  cases x; simp [Writes.merge]

@[simp] theorem Writes.empty_merge (x : Writes) : Writes.merge {} x = x := by
  cases x; simp [Writes.merge]

theorem Writes.merge_assoc (x y z : Writes) : (x.merge y).merge z = x.merge (y.merge z) := by
  simp [Writes.merge, Bool.or_assoc, Option.or_assoc]

theorem Block.commit_of_reset (p : Params) (b : Block) {x : Writes} (h : x.reset = true) :
    b.commit p x = Block.reset p := by
  simp [Block.commit, h]

/-- Without RESET, every field of the block after the edge. -/
theorem Block.commit_of_not_reset (p : Params) (b : Block) {x : Writes} (h : x.reset = false) :
    b.commit p x =
      { cursor := x.cursor.getD b.cursor, sub := x.sub.getD b.sub
        due := nextDue x.dueSet x.dueClear b.due
        active := x.active.getD b.active, shadow := x.shadow.getD b.shadow
        pending := nextPending x.pubSet x.swapClear b.pending
        dpPos := x.dpPos.getD b.dpPos, accSum := x.accSum.getD b.accSum, accCnt := x.accCnt.getD b.accCnt
        drvIdx := x.drvIdx.getD b.drvIdx, drvPat := x.drvPat.getD b.drvPat
        blankCnt := x.blankCnt.getD (b.blankCnt - 1) } := by
  simp [Block.commit, h]

/-- `cycleWrites` over a list joined from two. -/
theorem cycleWrites_append (p : Params) (k : Nat) (b : Block) (xs ys : List Instr) :
    cycleWrites p k b (xs ++ ys) = (cycleWrites p k b xs).merge (cycleWrites p k b ys) := by
  induction xs with
  | nil => simp [cycleWrites]
  | cons i is ih => simp [cycleWrites, ih, Writes.merge_assoc]

@[simp] theorem sampleWrites_enc (p : Params) (k : Nat) (b : Block) (v : RawSample) :
    (sampleWrites p k b v).enc = none := by
  unfold sampleWrites; split <;> rfl

/-- What an operation puts at ENC's input. -/
theorem writesOf_enc (p : Params) (k : Nat) (b : Block) (i : Instr) : (writesOf p k b i).enc = i.encValue? := by
  cases i <;> first | rfl | exact sampleWrites_enc p k b _

/-- What a cycle puts at ENC's input: the value of its first ENCODE. -/
theorem cycleWrites_enc (p : Params) (k : Nat) (b : Block) (ops : List Instr) :
    (cycleWrites p k b ops).enc = ops.findSome? Instr.encValue? := by
  induction ops with
  | nil => rfl
  | cons i is ih =>
    simp only [cycleWrites, Writes.merge, writesOf_enc, ih, List.findSome?_cons]
    cases i.encValue? <;> rfl

/-- A value put at ENC's input does not change what the block takes. -/
@[simp] theorem Block.commit_merge_encode (p : Params) (b : Block) (x : Writes) (v : EncValue) :
    b.commit p (x.merge (encodeWrites v)) = b.commit p x := by
  simp [Block.commit, Writes.merge, encodeWrites]

/-- An operation alone is the cycle that selects it alone. -/
theorem exec_eq_cycle (s : State) (i : Instr) : exec i s = .next (s.cycle [i]) := by
  cases i <;>
    simp [exec, State.cycle, cycleWrites, writesOf, execReset, execTick, execSample, execPublish, execDueAck,
      execDpWrite, execNop, execEncode]

/-- Operations run as one clock cycle, be it one operation or several. -/
theorem runOps_eq_cycle (ops : List Instr) (s : State) : runOps ops s = .next (s.cycle ops) := by
  match ops with
  | []          => rfl
  | [i]         => exact exec_eq_cycle s i
  | _ :: _ :: _ => rfl

/-- Every operation answers a next state, in every state. -/
theorem exec_next (i : Instr) (s : State) : ∃ t, exec i s = .next t := by
  cases i <;> exact ⟨_, rfl⟩

end Sys2Proof.Machine
end

