-- ==== Sys2Proof/Laws/PerInstr.lean ====
section
/-! SUPPORT. Family TableRow: what encodes an operation has the fixed bits of the operation's row in
spec/opcode_table.json, whatever its operand, and the bits of its row's format present the operation. -/

namespace Sys2Proof.Laws.TableRow

open Sys2Proof

/-- The encoded operation has its row's mask and match, and its bits in the row's format present it. -/
def Statement (i : Instr) : Prop :=
  (opRow i).accepts (encodeWord i) = true ∧ inputOfBits (instrFormat i) (rowBits i) = some (encodeInstr i)

theorem reset : Statement .reset := ⟨by decide, rowBits_present _⟩
theorem tick : Statement .tick := ⟨by decide, rowBits_present _⟩

/-- An operand shifted to bit 5 leaves the fixed bits of SAMPLE's row alone. -/
theorem sampleBits_or_shift (x k : CycleWord) : (x <<< 5 ||| k) &&& 0x00005#17 = k &&& 0x00005#17 := by
  apply BitVec.eq_of_getLsbD_eq
  intro i hi
  have hm : ∀ i < 17, 5 ≤ i → (0x00005#17).getLsbD i = false := by decide
  by_cases h : i < 5
  · simp [h]
  · simp [hm i hi (by omega)]

theorem sample (v : RawSample) : Statement (.sample v) := by
  refine ⟨?_, rowBits_present _⟩
  simp only [OpRow.accepts, opRow, encodeWord, sampleBits_or_shift]
  decide

theorem publish (v : RawSample) : Statement (.publish v) := ⟨(sample v).1, rowBits_present _⟩

theorem dueAck : Statement .dueAck := ⟨by decide, rowBits_present _⟩

theorem dpWrite (d : PosCode) : Statement (.dpWrite d) :=
  ⟨by revert d; decide, rowBits_present _⟩

theorem nop : Statement .nop := ⟨by decide, rowBits_present _⟩
theorem encode (v : EncValue) : Statement (.encode v) :=
  ⟨by simp [OpRow.accepts, opRow], rowBits_present _⟩

end Sys2Proof.Laws.TableRow
end

