-- ==== Sys2Proof/Laws/Step.lean ====
section
/-! SUPPORT. What a step can do, said once: it takes one input and is one clock cycle of the operations the input selects,
the block seeing the cycle word alone; a run over words is the fold of that. -/

namespace Sys2Proof.Machine

/-- A step of a legal block is one clock cycle. -/
theorem step_eq_cycle {s : State} (hp : s.params.legal = true) : step s = .next (s.consume.cycle s.nextOps) := by
  simp only [step, hp, if_true, runOps_eq_cycle]

/-- A step on the first input placed. -/
theorem step_input {s : State} {x : Input} {rest : List Input} (hp : s.params.legal = true)
    (hi : s.inputs = x :: rest) : step s = .next (State.afterInput { s with inputs := rest } x) := by
  rw [step_eq_cycle hp]
  simp [State.nextOps, State.nextInput, State.afterInput, State.consume, hi]

/-- What the block takes from an input is its cycle word. -/
theorem afterInput_block (s : State) (x : Input) : (s.afterInput x).block = (s.afterWord x.word).block := by
  obtain ⟨w, e⟩ := x
  cases e with
  | none => rfl
  | some v =>
    simp only [State.afterInput, State.afterWord, State.cycle, State.clock_block, decodeInput, cycleWrites_append]
    rw [show cycleWrites s.params s.steps s.block [.encode v] = encodeWrites v by
      simp [cycleWrites, writesOf], Block.commit_merge_encode, selectedOps]
    split
    · next h => simp only [List.isEmpty_iff] at h; rw [h]; rfl
    · rfl

/-- What ENC's input holds after a cycle. -/
@[simp] theorem afterInput_enc (s : State) (x : Input) : (s.afterInput x).enc = s.enc.next s.steps x.enc := by
  simp [State.afterInput, State.cycle, cycleWrites_enc, encValue_decodeInput]

@[simp] theorem State.afterWord_enc (s : State) (w : CycleWord) : (s.afterWord w).enc = s.enc :=
  afterInput_enc s (.cyc w)

/-- A cycle, by its two halves: the block takes the word, ENC the value. -/
theorem afterInput_eq (s : State) (x : Input) :
    s.afterInput x = { s.afterWord x.word with enc := s.enc.next s.steps x.enc } := by
  change State.mk s.params (s.afterInput x).block (s.afterInput x).enc s.inputs (s.steps + 1) = _
  rw [afterInput_block, afterInput_enc]
  rfl

/-- A step on a cycle word. -/
theorem step_cyc {s : State} {w : CycleWord} {rest : List Input} (hp : s.params.legal = true)
    (hi : s.inputs = .cyc w :: rest) : step s = .next (State.afterWord { s with inputs := rest } w) :=
  step_input hp hi

/-- A step on the first of the words fed. -/
theorem step_feed_cons {s : State} (hp : s.params.legal = true) (w : CycleWord) (ws : List CycleWord) :
    step (s.feed (w :: ws)) = .next ((s.afterWord w).feed ws) :=
  step_cyc (s := s.feed (w :: ws)) (rest := ws.map Input.cyc ++ s.inputs) hp rfl

/-- A run whose first step goes on is the run from there. -/
theorem run_succ_of_step (M : Host.Core) {n : Nat} {s t : M.State} (h : M.step s = .next t) :
    M.run (n + 1) s = M.run n t := by
  simp only [Host.Core.run, h]

/-- A run over words takes the first word, then the others. -/
theorem runWords_cons {s : State} (hp : s.params.legal = true) (w : CycleWord) (ws : List CycleWord) :
    runWords (w :: ws) s = runWords ws (s.afterWord w) :=
  run_succ_of_step core (step_feed_cons hp w ws)

/-- A run over words is the fold of their clock cycles. -/
theorem runWords_eq (ws : List CycleWord) (s : State) (hp : s.params.legal = true) :
    runWords ws s = .next (ws.foldl State.afterWord s) := by
  induction ws generalizing s with
  | nil => rfl
  | cons w ws ih => rw [runWords_cons hp, ih (s.afterWord w) hp, List.foldl_cons]

theorem foldl_afterWord_params (ws : List CycleWord) (s : State) :
    (ws.foldl State.afterWord s).params = s.params := by
  induction ws generalizing s with
  | nil => rfl
  | cons w ws ih => exact ih _

/-- A cycle with RESET. -/
theorem afterWord_of_reset (s : State) {w : CycleWord} (h : evRst w = true) :
    (s.afterWord w).block = Block.reset s.params := by
  simp [State.afterWord, State.cycle, selectedOps_of_reset h, cycleWrites, writesOf, resetWrites, Block.commit]

/-- A cycle without RESET: every field of the block, by the event bits of the word. Each field is written by the one
operation that may write it, all of them from the pre-state. -/
theorem afterWord_of_not_reset (s : State) {w : CycleWord} (h : evRst w = false) :
    (s.afterWord w).block =
      { cursor   := if evTick w then nextCursor s.steps s.block.cursor else s.block.cursor
        sub      := if evTick w then nextSub s.params s.block.sub else s.block.sub
        due      := nextDue (evTick w && raisesDue s.params s.block.sub) (evAck w) s.block.due
        active   := if evTick w then shownDigits s.block else s.block.active
        shadow   := if evSample w && windowEnds s.params s.block then
            encodeDigits s.params s.steps (displayValue s.params (sumWith s.block (fieldSample w))) else s.block.shadow
        pending  := nextPending (evSample w && windowEnds s.params s.block)
          (evTick w && swapFires s.block) s.block.pending
        dpPos    := if evDpWe w then fieldDp w else s.block.dpPos
        accSum   := if evSample w then
            (if windowEnds s.params s.block then 0 else sumWith s.block (fieldSample w)) else s.block.accSum
        accCnt   := if evSample w then
            (if windowEnds s.params s.block then 0 else s.block.accCnt + 1) else s.block.accCnt
        drvIdx   := if evTick w then s.block.cursor else s.block.drvIdx
        drvPat   := if evTick w then
            drivePattern s.steps (shownDigits s.block) s.block.dpPos s.block.cursor else s.block.drvPat
        blankCnt := if evTick w then s.params.blankCycles else s.block.blankCnt - 1 } := by
  cases h2 : evTick w <;> cases h3 : evSample w <;> cases h4 : evAck w <;> cases h5 : evDpWe w <;>
    cases h6 : windowEnds s.params s.block <;> cases h7 : swapFires s.block <;>
    simp [State.afterWord, State.cycle, selectedOps, eventOps, cycleWrites, writesOf, h, h2, h3, h4, h5, h6, h7,
      Writes.merge, Block.commit, tickWrites, sampleWrites, publishWrites, closeWindowWrites, accumulateWrites,
      dueAckWrites, dpWriteWrites, nopWrites, shownDigits, nextPending, nextDue]

end Sys2Proof.Machine
end

