-- ==== Sys2Proof/Tests/Slice0.lean ====
section
/-! SUPPORT. Small tests, each on one step or one word, with the expected result taken from the spec (most from
95_test_vectors.md, named by its id), the smoke tests of the well-formedness checks, and for every statement with
hypotheses a witness that meets them all. -/

namespace Sys2Proof.Tests

open Sys2Proof Sys2Proof.Machine

/-- The reset block at the default parameters. -/
def b0 : Block := Block.reset Params.default

/-- A state at the default parameters with the given block. -/
def st (b : Block) : State := { State.reset with block := b }

/-- The block a result holds. -/
def blockOf : Result → Option Block
  | .next t    => some t.block
  | .fault _   => none
  | .refused _ => none

/-- ENC's outputs in the state a result holds. -/
def encOf : Result → Option Digits
  | .next t    => some t.encOut
  | .fault _   => none
  | .refused _ => none

/-- The refusal a result is. -/
def refusalOf : Result → Option Refusal
  | .next _    => none
  | .fault _   => none
  | .refused r => some r

/-- The block after one step on a cycle word. -/
def after (b : Block) (w : Nat) : Option Block := blockOf (step ((st b).withFetchWord 24 w))

/-- encode(128), the buffer A of section 2.3. -/
def bufA : Digits := ⟨0x7F#8, 0x5B#8, 0x06#8⟩

/-! ### Well-formedness refuses -/

theorem test_wf_window_not_power : ({ Params.default with window := 15 } : Params).legal = false := by decide
theorem test_wf_windowLog2_zero : ({ Params.default with window := 1, windowLog2 := 0 } : Params).legal = false := by decide
theorem test_wf_sampleDiv_zero : ({ Params.default with sampleDiv := 0 } : Params).legal = false := by decide
theorem test_wf_scaleShift_zero : ({ Params.default with scaleShift := 0 } : Params).legal = false := by decide
theorem test_wf_lut_bit7 : ({ Params.default with segLut := defaultLut.set 4 0xE6#8 } : Params).legal = false := by decide
theorem test_wf_lut_blank : ({ Params.default with segLut := defaultLut.set 0 0x00#8 } : Params).legal = false := by decide
theorem test_wf_lut_repeated : ({ Params.default with segLut := defaultLut.set 9 0x7D#8 } : Params).legal = false := by decide
theorem test_wf_default_legal : Params.default.legal = true := by decide
theorem test_wf_encode_out_of_contract : Instr.wf (.encode 1000#10) = false := by decide
theorem test_wf_encode_in_contract : Instr.wf (.encode 999#10) = true := by decide
theorem test_wf_cycle_empty : cycleWf false [] = false := by decide
theorem test_wf_cycle_reset_not_alone : cycleWf false [.reset, .tick] = false := by decide
theorem test_wf_cycle_out_of_order : cycleWf false [.dueAck, .tick] = false := by decide
theorem test_wf_cycle_twice : cycleWf false [.tick, .tick] = false := by decide
theorem test_wf_cycle_encode_alone : cycleWf false [.encode 5#10] = true := by decide
theorem test_wf_cycle_encode_not_last : cycleWf false [.encode 5#10, .tick] = false := by decide
theorem test_wf_cycle_encode_twice : cycleWf false [.encode 5#10, .encode 6#10] = false := by decide
theorem test_wf_cycle_encode_beside_nop : cycleWf false [.nop, .encode 5#10] = false := by decide
theorem test_wf_cycle_publish_midwindow : cycleWf false [.publish 5#10] = false := by decide

/-! ### Decoding: words written from R39 and R40 -/

theorem test_decode_reset : selectedOps false 0b00000000000000001#17 = [.reset] := by decide
theorem test_decode_tick : selectedOps false 0b00000000000000010#17 = [.tick] := by decide
theorem test_decode_sample : selectedOps false 0b00100000000000100#17 = [.sample 512#10] := by decide
theorem test_decode_publish : selectedOps true 0b00100000000100100#17 = [.publish 513#10] := by decide
theorem test_decode_dueAck : selectedOps false 0b00000000000001000#17 = [.dueAck] := by decide
theorem test_decode_dpWrite : selectedOps false 0b10000000000010000#17 = [.dpWrite 2#2] := by decide
theorem test_decode_nop : selectedOps false 0b11111111111100000#17 = [.nop] := by decide
theorem test_decode_encode : decodeInput false (.comb 0b0001101001#10) = [.encode 105#10] := by decide
theorem test_decode_tick_encode : decodeInput false ⟨0x00002#17, some 105#10⟩ = [.tick, .encode 105#10] := by decide
theorem test_decode_all_events : selectedOps false 0b01000000000111110#17 =
    [.tick, .sample 1#10, .dueAck, .dpWrite 1#2] := by decide
theorem test_decode_reset_masks : selectedOps true 0x1FFFF#17 = [.reset] := by decide
theorem test_decode_too_wide : decodeBits false .cyc (2 ^ 17) = .refused .wordTooWide := by decide
theorem test_decode_enc_too_wide : decodeBits false .comb 1024 = .refused .wordTooWide := by decide
theorem test_table_words : decodeTableWord 24 0x1 = some .reset ∧ decodeTableWord 24 0x2 = some .tick ∧
    decodeTableWord 24 0x4 = some (.sample 0#10) ∧ decodeTableWord 24 0x8 = some .dueAck ∧
    decodeTableWord 24 0x10 = some (.dpWrite 0#2) ∧ decodeTableWord 24 0x0 = some .nop ∧
    decodeTableWord 16 0x0 = some (.encode 0#10) := by decide
theorem test_table_word_16_bits_sample : decodeTableWord 16 0x7FE4 = some (.sample 1023#10) := by decide
theorem test_table_word_none : decodeTableWord 24 0x20000 = none := by decide

/-! ### Assembler notation: the examples of R49 -/

theorem test_asm_tick_ack : encodeCycle [.tick, .dueAck] = 0x0000A#17 := by decide
theorem test_asm_tick_sample : encodeCycle [.tick, .sample 100#10] = 0x00C86#17 := by decide
theorem test_asm_show : expandLine Params.default .showDigit = [0x00002#17, 0x00000#17] := by decide

/-! ### One operation, one step -/

/-- R1 of section 2.7: RESET + TICK + SAMPLE 5. -/
theorem test_reset_R1 : after { b0 with
      cursor := 2#2, sub := 9, due := true, active := bufA, shadow := bufA, pending := true, dpPos := 1#2,
      accSum := 700, accCnt := 7, drvIdx := 1#2, drvPat := 0xDB#8, blankCnt := 1 } 0x000A7 =
    some b0 := by decide

/-- T2: the worked example of R67. -/
theorem test_tick_T2 : after { b0 with cursor := 1#2, sub := 14, dpPos := 1#2, active := bufA } 0x00002 =
    some { b0 with
      cursor := 2#2, sub := 0, due := true, dpPos := 1#2, active := bufA, drvIdx := 1#2, drvPat := 0xDB#8,
      blankCnt := 1 } := by decide

/-- T4: frame swap. -/
theorem test_tick_T4 : after { b0 with sub := 2, active := ⟨0x3F#8, 0#8, 0#8⟩, shadow := bufA, pending := true } 0x00002 =
    some { b0 with
      cursor := 1#2, sub := 3, active := bufA, shadow := bufA, drvIdx := 0#2, drvPat := 0x7F#8,
      blankCnt := 1 } := by decide

/-- T10: TICK + DP NONE uses the pre-state dp_pos. -/
theorem test_tick_dp_T10 : after { b0 with cursor := 1#2, dpPos := 1#2, active := bufA } 0x18012 =
    some { b0 with
      cursor := 2#2, sub := 1, dpPos := 3#2, active := bufA, drvIdx := 1#2, drvPat := 0xDB#8,
      blankCnt := 1 } := by decide

/-- T11: SAMPLE_DIV = 1 raises at every tick. -/
theorem test_tick_T11 : blockOf (step ((State.resetWith { Params.default with sampleDiv := 1 }).withFetchWord 24 0x00002)) =
    some { b0 with cursor := 1#2, sub := 0, due := true, drvIdx := 0#2, blankCnt := 1 } := by decide

/-- A10: no publish at the 15th sample. -/
theorem test_sample_A10 : after { b0 with accSum := 14322, accCnt := 14 } 0x07FE4 =
    some { b0 with accSum := 15345, accCnt := 15 } := by decide

/-- A13: SAMPLE does not clear due. -/
theorem test_sample_A13 : after { b0 with due := true, accCnt := 3, accSum := 30 } 0x00144 =
    some { b0 with due := true, accCnt := 4, accSum := 40 } := by decide

/-- A11: the 16th sample publishes. -/
theorem test_publish_A11 : after { b0 with accSum := 15345, accCnt := 15 } 0x07FE4 =
    some { b0 with shadow := ⟨0x6D#8, 0x6D#8, 0x5B#8⟩, pending := true } := by decide

/-- A12: the latest publish wins. -/
theorem test_publish_A12 : blockOf (exec (.publish 512#10) (st { b0 with
      accSum := 7680, accCnt := 15, pending := true, shadow := ⟨0x6D#8, 0x6D#8, 0x5B#8⟩ })) = some { b0 with shadow := bufA, pending := true } := by decide

/-- K1. -/
theorem test_dueAck_K1 : after { b0 with due := true } 0x00008 = some b0 := by decide

/-- K3: set wins over clear. -/
theorem test_dueAck_K3 : after { b0 with sub := 14, due := true } 0x0000A =
    some { b0 with cursor := 1#2, sub := 0, due := true, drvIdx := 0#2, blankCnt := 1 } := by decide

/-- D4: the latched point stays lit. -/
theorem test_dpWrite_D4 : after { b0 with dpPos := 1#2, drvIdx := 1#2, drvPat := 0xDB#8 } 0x18010 =
    some { b0 with dpPos := 3#2, drvIdx := 1#2, drvPat := 0xDB#8 } := by decide

/-- N1 and N3: the blanking counter counts down and stays at 0. -/
theorem test_nop_N1 : after { b0 with drvIdx := 0#2, drvPat := 0x7F#8, blankCnt := 1 } 0x00000 =
    some { b0 with drvIdx := 0#2, drvPat := 0x7F#8, blankCnt := 0 } := by decide
theorem test_nop_N3 : after b0 0x00000 = some b0 := by decide

/-- L1.2 and E4: ENC's worked results. -/
theorem test_encode_105 : digitsOf Params.default 105 = ⟨0x6D#8, 0x3F#8, 0x06#8⟩ := by decide
theorem test_encode_E4 : digitsOf Params.default 10 = ⟨0x3F#8, 0x06#8, 0x00#8⟩ := by decide

/-- A step on a value at ENC's input presents it (L1.1 and R54). -/
theorem test_step_encode : encOf (step (State.reset.withFetchWord 16 0x2A)) = some ⟨0x5B#8, 0x66#8, 0x00#8⟩ ∧
    blockOf (step (State.reset.withFetchWord 16 0x2A)) = some b0 := by decide

/-- ENCODE alone: R72 counts blank_cnt down in that cycle as in every cycle without TICK (R77, R79). -/
theorem test_step_encode_blanking :
    blockOf (step ((st { b0 with blankCnt := 1 }).withFetchWord 16 0x2A)) = some b0 := by decide

/-- A TICK in the cycle that presents a value to ENC is the TICK of R67, and ENC shows the value (R54). -/
theorem test_cycle_tick_encode :
    blockOf (step { st b0 with inputs := [⟨0x00002#17, some 42#10⟩] }) =
      some { b0 with cursor := 1#2, sub := 1, drvIdx := 0#2, blankCnt := 1 } ∧
    encOf (step { st b0 with inputs := [⟨0x00002#17, some 42#10⟩] }) = some ⟨0x5B#8, 0x66#8, 0x00#8⟩ := by decide

/-- M1: swap and publish in one cycle. -/
theorem test_cycle_M1 : after { b0 with pending := true, shadow := bufA, accSum := 1500, accCnt := 15 } 0x00C86 =
    some { b0 with
      cursor := 1#2, sub := 1, active := bufA, shadow := ⟨0x6D#8, 0x5B#8, 0x00#8⟩, pending := true,
      drvIdx := 0#2, drvPat := 0x7F#8, blankCnt := 1 } := by decide

/-- M3: raise, sample and acknowledge in one cycle. -/
theorem test_cycle_M3 : after { b0 with cursor := 2#2, sub := 14, due := true, accSum := 30, accCnt := 3 } 0x0014E =
    some { b0 with cursor := 0#2, sub := 0, due := true, accSum := 40, accCnt := 4, drvIdx := 2#2, blankCnt := 1 } := by
  decide

/-- O1 and O2 of section 2.8 at the default polarities. -/
theorem test_outputs_O1 : (st { b0 with drvIdx := 1#2, drvPat := 0xDB#8 }).outputs = ⟨0x24#8, 0b010#3, false⟩ := by decide
theorem test_outputs_O2 : (st { b0 with drvIdx := 1#2, drvPat := 0xDB#8, blankCnt := 1 }).outputs =
    ⟨0xFF#8, 0b000#3, false⟩ := by decide

/-- An illegal parameter set is refused (R7). -/
theorem test_illegal_params :
    refusalOf (step (State.resetWith { Params.default with window := 15 })) = some .illegalParams := by decide

/-! ### Witnesses: the hypotheses of the statements are met -/

theorem witness_fitsWindow : Instr.fitsWindow false (.sample 1023#10) = true ∧ Instr.fitsWindow true (.publish 0#10) = true ∧
    Instr.fitsWindow true (.encode 1000#10) = true := by decide

theorem witness_cycleWf : cycleWf false [.tick, .sample 1023#10, .dueAck, .dpWrite 3#2] = true ∧
    cycleWf true [.publish 0#10] = true ∧ cycleWf false [.reset] = true ∧ cycleWf true [.nop] = true ∧
    cycleWf false [.reset, .encode 1023#10] = true ∧ cycleWf true [.publish 0#10, .encode 0#10] = true := by decide

theorem witness_stepRunsDecoded : State.reset.params.legal = true ∧
    (State.reset.withFetchWord 24 0x00002).inputs = [.cyc 0x00002#17] ∧
    decodeInput (windowEnds State.reset.params State.reset.block) (.cyc 0x00002#17) = [.tick] := by decide

theorem witness_pseudocode : State.reset.params.legal = true ∧ State.reset.block.cursor ≠ posNone ∧
    (State.reset.withFetchWord 24 0x18012).inputs = .cyc 0x18012#17 :: [] := by decide

/-- O6, O7, O49: an input with and without a value for ENC. -/
theorem witness_inputs : State.reset.params.legal = true ∧ State.reset.block.cursor ≠ posNone ∧
    (State.reset.withFetchWord 16 0x3FF).inputs = [⟨0x00000#17, some 1023#10⟩] ∧
    decodeInput false ⟨0x00000#17, some 1023#10⟩ = [.encode 1023#10] ∧
    ({ State.reset with inputs := [⟨0x18012#17, some 0#10⟩] } : State).inputs =
      ⟨0x18012#17, some 0#10⟩ :: [] := by decide

theorem witness_order : cycleWf (windowEnds State.reset.params State.reset.block) [.tick, .dueAck] = true ∧
    [Instr.dueAck, .tick].Perm [.tick, .dueAck] := ⟨by decide, .swap _ _ _⟩

theorem witness_nothingPlaced : State.reset.inputs = [] := rfl

/-- Both sides of O10's condition are met: R7's conditions fail for WINDOW = 15 and hold for the defaults; the largest
window sum is within the last clause. -/
theorem witness_illegal : ¬ ((15 : Nat) = 2 ^ 4) ∧ Params.default.legal = true ∧ 16368 ≤ Params.default.window * 1023 ∧
    displayValue Params.default 16368 = 255 := by decide

theorem witness_legal : State.reset.params.legal = true := by decide

theorem witness_exec_next : exec .nop State.reset = .next (State.reset.clock nopWrites) := rfl
theorem witness_step_next :
    step (State.reset.feed [0x00000#17]) = .next (State.reset.afterWord 0x00000#17) :=
  step_feed_cons (s := State.reset) (by decide) _ []

theorem witness_tick_cursors : (st { b0 with cursor := 2#2 }).block.cursor ≠ posNone ∧
    (st { b0 with pending := true }).block.cursor ≠ posNone := by decide
theorem witness_tick_cursor_three : (st { b0 with cursor := 3#2 }).block.cursor = posNone := by decide

theorem witness_publish : (st { b0 with accCnt := 15 }).block.accCnt + 1 = (st b0).params.window ∧
    (st { b0 with accCnt := 14 }).block.accCnt + 1 ≠ (st b0).params.window := by decide

theorem witness_encode_clauses : (999#10 : EncValue).toNat ≤ 999 ∧ 1000 ≤ (1000#10 : EncValue).toNat := by decide

theorem witness_reset_words : State.reset.params.legal = true ∧ 0x000A7#17 &&& 0x00001#17 = 0x00001#17 ∧
    0x1FFFF#17 &&& 0x00001#17 = 0x00001#17 := by decide

theorem witness_ack_words : State.reset.params.legal = true ∧ 0x0000A#17 &&& 0x00009#17 = 0x00008#17 ∧
    0x1FFE8#17 &&& 0x00009#17 = 0x00008#17 ∧ 0x1FFE8#17 &&& 0x0001F#17 = 0x00008#17 := by decide

/-- O22, clause by clause: with and without TICK, alone, and with NONE. -/
theorem witness_dp_words : State.reset.params.legal = true ∧
    0x18012#17 &&& 0x00011#17 = 0x00010#17 ∧ (0x18012#17).getLsbD 1 = true ∧
    cellAt (shownDigits b0) b0.cursor = some 0x00#8 ∧
    0x18010#17 &&& 0x00011#17 = 0x00010#17 ∧ (0x18010#17).getLsbD 1 = false ∧
    0x18010#17 &&& 0x0001F#17 = 0x00010#17 ∧ (0x18010#17).extractLsb' 15 2 = 3#2 := by decide

theorem witness_nop_words : State.reset.params.legal = true ∧ 0x1FFE0#17 &&& 0x0001F#17 = 0x00000#17 ∧
    0x0001C#17 &&& 0x00003#17 = 0x00000#17 := by decide

/-- O24, clause by clause: a raise, a publish on a swap, a swap without a sample. -/
theorem witness_set_wins : evRst 0x0000E#17 = false ∧ evTick 0x0000E#17 = true ∧ evSample 0x0000E#17 = true ∧
    evSample 0x0000A#17 = false ∧ evRst 0x0000A#17 = false ∧ evTick 0x0000A#17 = true ∧
    (let s := st { b0 with sub := 14, accCnt := 15, pending := true }
     s.params.legal = true ∧ s.block.sub + 1 = s.params.sampleDiv ∧ s.block.accCnt + 1 = s.params.window ∧
       s.block.cursor = 0#2 ∧ s.block.pending = true) := by decide

/-- O25: words without RESET, with each of the other events off, and a swap that does change active. -/
theorem witness_writers : State.reset.params.legal = true ∧ evRst 0x00000#17 = false ∧ evTick 0x00000#17 = false ∧
    evSample 0x00000#17 = false ∧ evAck 0x00000#17 = false ∧ evDpWe 0x00000#17 = false ∧ evRst 0x00002#17 = false ∧
    after { b0 with pending := true, shadow := bufA } 0x00002 ≠ some b0 := by decide

theorem witness_unused_bits : 0x00008#17 &&& 0x0001F#17 = 0x1FFE8#17 &&& 0x0001F#17 ∧ evRst 0x00008#17 = false ∧
    0x00C84#17 &&& 0x0001F#17 = 0x18C84#17 &&& 0x0001F#17 ∧ evSample 0x00C84#17 = true ∧
    fieldSample 0x00C84#17 = fieldSample 0x18C84#17 := by decide

theorem witness_idempotent : (Instr.dpWrite 1#2 = .reset ∨ Instr.dpWrite 1#2 = .dueAck ∨ ∃ d, Instr.dpWrite 1#2 = .dpWrite d) :=
  .inr (.inr ⟨_, rfl⟩)

/-- The premises of the statements over runs from reset: a legal state, a RESET word, and ticks after it; with the
blanking over, as O29's last clause asks. -/
theorem witness_run_from_reset : State.reset.params.legal = true ∧ evRst 0x00001#17 = true ∧
    ticksSinceReset [0x00002#17, 0x00000#17] = 1 ∧
    ([0x00001#17, 0x00002#17, 0x00000#17].foldl State.afterWord State.reset).block.blankCnt = 0 := by decide

theorem witness_lut : Params.default.lutLegal = true ∧ (0 ≤ 999) ∧ (999 ≤ 999) := by decide

theorem witness_display_value : Params.default.legal = true ∧ 16368 ≤ Params.default.window * 1023 := by decide

theorem witness_inv : Inv State.reset := by
  refine ⟨by decide, by decide, by decide, by decide, by decide, ?_, ?_, by decide, fun _ => ?_⟩ <;>
    simp [State.reset, bit7Clear, blankDigits]

/-- The invariant and a step that answers a next state. -/
theorem witness_inv_step : Inv (State.reset.feed [0x00002#17]) ∧
    step (State.reset.feed [0x00002#17]) = .next (State.reset.afterWord 0x00002#17) :=
  ⟨⟨witness_inv.legal, witness_inv.cursor, witness_inv.sub, witness_inv.accCnt, witness_inv.accSum,
    witness_inv.active, witness_inv.shadow, witness_inv.blank, witness_inv.idle⟩,
    step_feed_cons (s := State.reset) (by decide) _ []⟩

/-- O38: a frame start with two more ticks, and other operations between. -/
theorem witness_frame : State.reset.params.legal = true ∧ State.reset.block.cursor = 0#2 ∧ evRst 0x00002#17 = false ∧
    evTick 0x00002#17 = true ∧ noReset [0x00002#17, 0x00C84#17, 0x0000A#17] ∧
    tickTotal [0x00002#17, 0x00C84#17, 0x0000A#17] ≤ 2 := by
  refine ⟨by decide, by decide, by decide, by decide, ?_, by decide⟩; simp [noReset, evRst]

/-- O39: fifteen samples of 512 with a tick among them, and the sixteenth. -/
theorem witness_full_window : State.reset.params.legal = true ∧ State.reset.block.accCnt = 0 ∧
    State.reset.block.accSum = 0 ∧ noReset (0x00002#17 :: List.replicate 15 0x04004#17 ++ [0x04004#17]) ∧
    evSample 0x04004#17 = true ∧
    (samplesOf (0x00002#17 :: List.replicate 15 0x04004#17 ++ [0x04004#17])).length = State.reset.params.window := by
  refine ⟨by decide, by decide, by decide, ?_, by decide, by decide⟩; simp [noReset, evRst]

/-- O40, O46: fifteen samples, the most that do not complete the window. -/
theorem witness_unfinished_window : State.reset.params.legal = true ∧ noReset (List.replicate 15 0x04004#17) ∧
    State.reset.block.accCnt + (samplesOf (List.replicate 15 0x04004#17)).length < State.reset.params.window := by
  refine ⟨by decide, ?_, by decide⟩; simp [noReset, evRst]

/-- O41, O45: a tick, then words without TICK or RESET; BLANK_CYCLES is 1, so the empty list is within the blanking and
this one is past it. -/
theorem witness_blanking : State.reset.params.legal = true ∧ evRst 0x00002#17 = false ∧ evTick 0x00002#17 = true ∧
    noTick [0x00008#17] ∧ noReset [0x00008#17] ∧
    cellAt (shownDigits State.reset.block) State.reset.block.cursor = some 0x00#8 ∧
    ([] : List CycleWord).length < State.reset.params.blankCycles ∧
    State.reset.params.blankCycles ≤ [0x00008#17].length := by
  refine ⟨by decide, by decide, by decide, ?_, ?_, by decide, by decide, by decide⟩
  · simp [noTick, evTick]
  · simp [noReset, evRst]

/-- O42: a list with one tick in it, split at the tick, and one without; and, at BLANK_CYCLES = 2, a first tick with a
second one inside its blanking. -/
theorem witness_dark : State.reset.params.legal = true ∧ evRst 0x00001#17 = true ∧
    noReset [0x00004#17, 0x00002#17, 0x00000#17] ∧
    [0x00004#17, 0x00002#17, 0x00000#17] = [0x00004#17] ++ 0x00002#17 :: [0x00000#17] ∧ noTick [0x00004#17] ∧
    evTick 0x00002#17 = true ∧ noTick [0x00000#17] ∧ State.reset.params.blankCycles ≤ [0x00000#17].length ∧
    tickTotal [0x00004#17, 0x00002#17, 0x00000#17] < State.reset.params.sampleDiv ∧
    ({ Params.default with blankCycles := 2 } : Params).legal = true ∧ noReset [0x00002#17, 0x00002#17] ∧
    [0x00002#17, 0x00002#17] = [] ++ 0x00002#17 :: [0x00002#17] ∧ noTick [] ∧
    [0x00002#17].length < ({ Params.default with blankCycles := 2 } : Params).blankCycles := by
  refine ⟨by decide, by decide, ?_, rfl, ?_, by decide, ?_, by decide, by decide, by decide, ?_, rfl, ?_, by decide⟩ <;>
    simp [noReset, noTick, evRst, evTick]

/-- O43: a reset, a tick in the middle, no tick after it. -/
theorem witness_last_tick : State.reset.params.legal = true ∧ evRst 0x00001#17 = true ∧ evRst 0x00002#17 = false ∧
    evTick 0x00002#17 = true ∧ noTick [0x08010#17] ∧ noReset [0x08010#17] := by
  refine ⟨by decide, by decide, by decide, by decide, ?_, ?_⟩
  · simp [noTick, evTick]
  · simp [noReset, evRst]

/-- O44: a pending generation and three ticks, the last of which finds cursor 0; and one idle cycle after it, as many
as BLANK_CYCLES. -/
theorem witness_three_ticks :
    (let s := st { b0 with cursor := 1#2, pending := true, shadow := bufA }
     s.params.legal = true ∧ s.block.cursor ≠ posNone ∧ s.block.pending = true ∧
       s.block.accCnt + (samplesOf [0x00002#17, 0x00002#17, 0x00002#17]).length < s.params.window ∧
       s.params.blankCycles ≤ [0x00000#17].length) ∧
    noReset [0x00002#17, 0x00002#17, 0x00002#17] ∧ 3 ≤ tickTotal [0x00002#17, 0x00002#17, 0x00002#17] ∧
    noTick [0x00000#17] ∧ noReset [0x00000#17] := by
  refine ⟨by decide, ?_, by decide, ?_, ?_⟩ <;> simp [noReset, noTick, evRst, evTick]

end Sys2Proof.Tests
end

section
/-! PROOFS. 00_scope.md: what a parameter set must meet (R7, R52) and what the step makes of it, the widths of the
counters (R8, R62), and the free input of a step with nothing placed (R3, R84). -/

namespace Sys2Proof.Machine

/-! ### Legal parameter sets and the step -/

/-- The entries of SEG_LUT, as members of its list and by their digit. -/
theorem forall_mem_segLut_iff (p : Params) (P : Pattern → Prop) :
    (∀ e ∈ p.segLut.toList, P e) ↔ ∀ d : Fin 10, P p.segLut[d] := by
  simp only [List.forall_mem_iff_getElem, Fin.forall_iff, Vector.length_toList, Vector.getElem_toList,
    Fin.getElem_fin]

/-- The entries of SEG_LUT are pairwise distinct exactly when different digits have different entries. -/
theorem nodup_segLut_iff (p : Params) :
    p.segLut.toList.Nodup ↔ ∀ d e : Fin 10, p.segLut[d] = p.segLut[e] → d = e := by
  rw [List.nodup_iff_injective_getElem]
  simp [Function.Injective, Fin.forall_iff]

/-- The legality check of SEG_LUT is the three constraints of R52. -/
theorem lutLegal_iff (p : Params) :
    p.lutLegal = true ↔ (∀ d : Fin 10, p.segLut[d].getLsbD 7 = false) ∧
      (∀ d : Fin 10, p.segLut[d] ≠ blankPattern) ∧ ∀ d e : Fin 10, p.segLut[d] = p.segLut[e] → d = e := by
  simp only [Params.lutLegal, Bool.and_eq_true, List.all_eq_true, decide_eq_true_eq, and_assoc,
    forall_mem_segLut_iff, nodup_segLut_iff, Bool.not_eq_true', bne_iff_ne]

/-- The legality check of a parameter set is the constraints of R7, the table's apart. -/
theorem legal_iff (p : Params) :
    p.legal = true ↔ p.window = 2 ^ p.windowLog2 ∧ 1 ≤ p.windowLog2 ∧ 1 ≤ p.sampleDiv ∧
      (10 : Int) - p.scaleShift ≤ 9 ∧ p.lutLegal = true := by
  have hshift : (10 : Int) - p.scaleShift ≤ 9 ↔ sampleW ≤ p.scaleShift + 9 := by
    unfold sampleW; omega
  simp [Params.legal, hshift, and_assoc]

theorem step_of_not_legal {s : State} (h : ¬ s.params.legal = true) : step s = .refused .illegalParams :=
  if_neg h

/-- The Display Value is at least halved from the mean (R7: SAMPLE_W - SCALE_SHIFT is at most 9). -/
theorem displayValue_le_511 {p : Params} (h : p.legal = true) {sum1 : Nat} (hs : sum1 ≤ p.window * 1023) :
    displayValue p sum1 ≤ 511 := by
  obtain ⟨hwindow, -, -, hshift, -⟩ := legal_facts h
  calc displayValue p sum1
      ≤ 1023 / 2 ^ p.scaleShift := displayValue_le_of_sum_le hwindow hs
    _ ≤ 1023 / 2 ^ 1 := Nat.div_le_div_left (Nat.pow_le_pow_right (by decide) hshift) (by decide)

/-- Settles O10: the condition written out is the model's legality check, on which the step branches. -/
theorem illegalParameterSetIsRefused : Obligations.IllegalParameterSetIsRefused := by
  intro s p cond
  have hcond : s.params.legal = true ↔ cond := by rw [legal_iff, lutLegal_iff]
  refine ⟨fun h => step_of_not_legal (mt hcond.1 h), fun h => ?_⟩
  have hlegal := hcond.2 h
  exact ⟨⟨_, step_eq_cycle hlegal⟩, fun _ hs => displayValue_le_511 hlegal hs⟩

/-! ### The widths of the counters -/

/-- `clog2 n` bits hold the numbers below `n`. -/
theorem le_two_pow_clog2 (n : Nat) : n ≤ 2 ^ clog2 n := by
  unfold clog2
  split_ifs with h
  · exact h
  · have : n - 1 < 2 ^ ((n - 1).log2 + 1) := Nat.lt_log2_self
    omega

/-- So do they when the register has at least one bit (R13, R23). -/
theorem le_two_pow_max_clog2 (n : Nat) : n ≤ 2 ^ max 1 (clog2 n) :=
  (le_two_pow_clog2 n).trans (Nat.pow_le_pow_right (by decide) (le_max_right _ _))

/-- A sum within one window's bound fits SUM_W (R62). -/
theorem lt_two_pow_sumW {p : Params} (h : p.legal = true) {n : Nat} (hn : n ≤ p.window * 1023) :
    n < 2 ^ p.sumW := by
  have hpos := window_pos h
  have hsumW : 2 ^ p.sumW = 1024 * p.window := by
    rw [Params.sumW, pow_add, (legal_facts h).1, sampleW]; norm_num
  omega

/-- One sample more stays within one window's bound: the count is below WINDOW (R62). -/
theorem sumWith_le_window {s : State} (h : Inv s) (v : RawSample) : sumWith s.block v ≤ s.params.window * 1023 :=
  calc sumWith s.block v
      ≤ s.block.accCnt * 1023 + 1023 := Nat.add_le_add h.accSum (sampleOperand_le v)
    _ = (s.block.accCnt + 1) * 1023 := by ring
    _ ≤ s.params.window * 1023 := Nat.mul_le_mul_right _ h.accCnt

/-- The invariant keeps every counter within its register. -/
theorem fits_of_inv {s : State} (h : Inv s) : s.block.fits s.params := by
  refine ⟨?sub, ?accSum, ?accCnt, ?blank⟩
  case sub => exact h.sub.trans_le (le_two_pow_max_clog2 _)
  case accSum =>
    exact lt_two_pow_sumW h.legal (h.accSum.trans (Nat.mul_le_mul_right _ h.accCnt.le))
  case accCnt => exact h.accCnt.trans_eq (legal_facts h.legal).1
  case blank => exact (Nat.lt_succ_of_le h.blank).trans_le (le_two_pow_max_clog2 _)

/-- Settles O35: the bounds of the invariant are within the widths, and a window's sum within SUM_W. -/
theorem countersFitTheirRegisters : Obligations.CountersFitTheirRegisters := fun _ h =>
  ⟨fits_of_inv h, fun v => ⟨lt_two_pow_sumW h.legal (sumWith_le_window h v), sumWith_le_window h v⟩⟩

/-! ### The free input -/

/-- A step depends on the operations selected and the state with the input taken, and on nothing else. -/
theorem step_congr {s t : State} (hops : s.nextOps = t.nextOps) (hconsume : s.consume = t.consume) :
    step s = step t := by
  have hparams : s.params = t.params := by simpa using congrArg State.params hconsume
  simp only [step, hparams, hops, hconsume]

/-- With nothing placed, the next input is the environment's free value. -/
theorem nextInput_of_inputs_nil {s : State} (h : s.inputs = []) : s.nextInput = Config.envInput s.steps := by
  simp [State.nextInput, h]

/-- Settles O9: both states take the same input, and nothing is left placed in either. -/
theorem stepWithNothingPlacedTakesAFreeInput : Obligations.StepWithNothingPlacedTakesAFreeInput := by
  intro s hnil
  apply step_congr
  · rw [State.nextOps, nextInput_of_inputs_nil hnil]; rfl
  · simp [State.consume, hnil]

end Sys2Proof.Machine
end

section
/-! PROOFS. 10_state.md: the parameters (R24), the invariant (R25), which operations write a field (R10, R12 to R23),
what holds between two ticks (R21, R22, R69), and that an unfinished sum is not observable (R27, R63). -/

namespace Sys2Proof.Machine

/-! ### A step as the cycle of its input, and the parameters -/

/-- A step that answers a next state is that of a legal block on its next input. -/
theorem step_eq_next {s t : State} (h : step s = .next t) :
    s.params.legal = true ∧ t = s.consume.afterInput s.nextInput := by
  by_cases hp : s.params.legal = true
  · rw [step_eq_cycle hp] at h
    cases h
    exact ⟨hp, rfl⟩
  · rw [step_of_not_legal hp] at h
    cases h

/-- Settles O12: an operation and a step are a clock cycle each, and a clock cycle keeps the parameters. -/
theorem parametersNeverChange : Obligations.ParametersNeverChange := by
  refine ⟨fun i s t h => ?_, fun s t h => ?_⟩
  · rw [exec_eq_cycle] at h
    cases h
    exact State.cycle_params s [i]
  · obtain ⟨-, rfl⟩ := step_eq_next h
    exact State.afterInput_params _ _

/-! ### The invariant -/

/-- The invariant speaks of the parameters and the block alone. -/
theorem Inv.congr {s t : State} (h : Inv s) (hp : t.params = s.params) (hb : t.block = s.block) : Inv t := by
  obtain ⟨_, _, _, _, _⟩ := s
  obtain ⟨_, _, _, _, _⟩ := t
  cases hp
  cases hb
  exact { h with }

theorem bit7Clear_blankDigits : bit7Clear blankDigits := ⟨rfl, rfl, rfl⟩

/-- RESET_STATE meets the invariant (R96). -/
theorem inv_of_block_reset {s : State} (hp : s.params.legal = true) (hb : s.block = Block.reset s.params) : Inv s := by
  have hsampleDiv : 0 < s.params.sampleDiv := (legal_facts hp).2.2.1
  constructor <;> simp [hb, hp, hsampleDiv, window_pos hp, bit7Clear_blankDigits]

/-- Settles O33: the reset state holds the block of R96. -/
theorem resetStateMeetsTheInvariant : Obligations.ResetStateMeetsTheInvariant :=
  ⟨inv_of_block_reset (by decide) rfl, fun _ hp => inv_of_block_reset hp rfl⟩

/-- ENC sets bit 7 of no output for a value within contract (R52, R56). -/
theorem bit7Clear_digitsOf {p : Params} (hl : p.lutLegal = true) {v : Nat} (hv : v ≤ 999) :
    bit7Clear (digitsOf p v) := by
  have hmod (n : Nat) : (lut p (n % 10)).getLsbD 7 = false := lut_bit7 hl (Nat.mod_lt n (by decide))
  refine ⟨hmod v, ?tens, ?hundreds⟩ <;> simp only [digitsOf] <;> split_ifs
  exacts [rfl, hmod (v / 10), rfl, lut_bit7 hl (by omega)]

/-- A generation published from a state that meets the invariant is within ENC's contract (R7, R61). -/
theorem bit7Clear_published {s : State} (h : Inv s) (draw : Nat) (v : RawSample) :
    bit7Clear (encodeDigits s.params draw (displayValue s.params (sumWith s.block v))) := by
  have hvalue : displayValue s.params (sumWith s.block v) ≤ 511 :=
    displayValue_le_511 h.legal (sumWith_le_window h v)
  rw [encodeDigits_of_le (by omega)]
  exact bit7Clear_digitsOf (legal_facts h.legal).2.2.2.2 (by omega)

theorem nextCursor_ne_none (draw : Nat) {c : PosCode} (h : c ≠ posNone) : nextCursor draw c ≠ posNone := by
  rcases posCode_cases h with rfl | rfl | rfl <;> simp [nextCursor]

/-- The sub-counter stays below SAMPLE_DIV (R71). -/
theorem nextSub_lt {p : Params} {sub : Nat} (h : sub < p.sampleDiv) : nextSub p sub < p.sampleDiv := by
  unfold nextSub raisesDue
  split_ifs with hraise
  · omega
  · have : sub + 1 ≠ p.sampleDiv := by simpa using hraise
    omega

/-- The next SAMPLE completes the window exactly at acc_cnt = WINDOW-1 (R60). -/
theorem windowEnds_iff (p : Params) (b : Block) : windowEnds p b = true ↔ b.accCnt + 1 = p.window := by
  simp [windowEnds]

theorem shownDigits_bit7Clear {b : Block} (ha : bit7Clear b.active) (hs : bit7Clear b.shadow) :
    bit7Clear (shownDigits b) := by
  unfold shownDigits
  split_ifs <;> assumption

/-- One clock cycle keeps the invariant. -/
theorem Inv.afterWord {s : State} (h : Inv s) (w : CycleWord) : Inv (s.afterWord w) := by
  cases hr : evRst w
  case true => exact inv_of_block_reset h.legal (afterWord_of_reset s hr)
  case false =>
    have hb := afterWord_of_not_reset s hr
    constructor <;> simp only [hb, State.afterWord_params]
    case legal => exact h.legal
    case cursor =>
      split_ifs
      exacts [nextCursor_ne_none _ h.cursor, h.cursor]
    case sub =>
      split_ifs
      exacts [nextSub_lt h.sub, h.sub]
    case accCnt =>
      split_ifs with _ hends
      · exact window_pos h.legal
      · rw [windowEnds_iff] at hends
        have := h.accCnt
        omega
      · exact h.accCnt
    case accSum =>
      have := h.accSum
      have := sampleOperand_le (fieldSample w)
      unfold sumWith
      split_ifs <;> omega
    case active =>
      split_ifs
      exacts [shownDigits_bit7Clear h.active h.shadow, h.active]
    case shadow =>
      split_ifs
      exacts [bit7Clear_published h _ _, h.shadow]
    case blank =>
      have := h.blank
      split_ifs <;> omega
    case idle =>
      intro hnone
      cases ht : evTick w
      case true => exact absurd (by simpa [ht] using hnone) h.cursor
      case false =>
        obtain ⟨hcursor, hsub, hdue, hblank, hpat, hactive⟩ := h.idle (by simpa [ht] using hnone)
        simp [hcursor, hsub, hdue, hblank, hpat, hactive, nextDue]

/-- Settles O34: a step is the clock cycle of its input's word, as far as the invariant can see. -/
theorem everyStepKeepsTheInvariant : Obligations.EveryStepKeepsTheInvariant := by
  intro s t h hstep
  obtain ⟨-, rfl⟩ := step_eq_next hstep
  have hconsume : Inv s.consume := h.congr rfl rfl
  exact (hconsume.afterWord s.nextInput.word).congr rfl (afterInput_block _ _)

/-- A run over words keeps the invariant. -/
theorem Inv.foldl_afterWord (ws : List CycleWord) {s : State} (h : Inv s) : Inv (ws.foldl State.afterWord s) := by
  induction ws generalizing s with
  | nil => exact h
  | cons w ws ih => exact ih (h.afterWord w)

/-! ### Which operations write a field -/

/-- Settles O25: each field after the cycle, as the events that write it leave it. -/
theorem onlyTheNamedOperationsWriteAField : Obligations.OnlyTheNamedOperationsWriteAField := by
  intro s w hp hr
  refine ⟨s.afterWord w, step_feed_cons hp w [], ?_⟩
  rw [afterWord_of_not_reset s hr, State.afterWord_enc]
  simp only [nextDue_iff, nextPending_iff]
  refine ⟨?tick, ?active, ?publish, ?sample, ?ack, ?dpWrite, trivial⟩
  case tick =>
    intro ht
    simp only [ht, Bool.false_and, Bool.false_eq_true, if_false, false_or, true_and]
    exact ⟨And.right, .inr⟩
  case active =>
    intro hne
    cases ht : evTick w
    case false => simp [ht] at hne
    case true =>
      cases hswap : swapFires s.block
      case false => simp [ht, shownDigits, hswap] at hne
      case true => simpa using (swapFires_iff s.block).1 hswap
  case publish =>
    intro hnot
    have hpub : (evSample w && windowEnds s.params s.block) = false := by
      rw [← windowEnds_iff] at hnot
      simpa using hnot
    simp [hpub]
  case sample =>
    intro hs
    simp [hs]
  case ack =>
    intro ha hdue
    exact .inr ⟨ha, hdue⟩
  case dpWrite =>
    intro hd
    simp [hd]

/-! ### Between two ticks -/

/-- Without TICK and RESET a run leaves the driver, the active buffer and the sequencing as they are, and counts the
blanking down (R72). -/
theorem foldl_afterWord_of_noTick (ws : List CycleWord) (s : State) (ht : noTick ws) (hr : noReset ws) :
    let t := ws.foldl State.afterWord s
    t.block.drvIdx = s.block.drvIdx ∧ t.block.drvPat = s.block.drvPat ∧ t.block.active = s.block.active ∧
      t.block.cursor = s.block.cursor ∧ t.block.sub = s.block.sub ∧
      t.block.blankCnt = s.block.blankCnt - ws.length := by
  induction ws generalizing s with
  | nil => simp
  | cons w ws ih =>
    obtain ⟨htw, htws⟩ := List.forall_mem_cons.1 ht
    obtain ⟨hrw, hrws⟩ := List.forall_mem_cons.1 hr
    have hrest := ih (s.afterWord w) htws hrws
    simpa [afterWord_of_not_reset s hrw, htw, Nat.sub_sub, Nat.add_comm] using hrest

/-- Settles O45: the run is the fold of its cycles, none of which ticks or resets. -/
theorem betweenTicksTheDisplayHolds : Obligations.BetweenTicksTheDisplayHolds := fun s ws hp ht hr =>
  ⟨_, runWords_eq ws s hp, foldl_afterWord_of_noTick ws s ht hr⟩

/-! ### What the driver shows -/

/-- The cell a TICK latches is one of active or of shadow (R67, R68). -/
theorem cellAt_shownDigits {b : Block} {c : PosCode} {q : Pattern} (h : cellAt (shownDigits b) c = some q) :
    cellAt b.active c = some q ∨ cellAt b.shadow c = some q := by
  unfold shownDigits at h
  split_ifs at h
  exacts [.inr h, .inl h]

/-- A cell with its decimal point joined gives both back (R42, R69). -/
theorem or_dpMask_parts {q : Pattern} (hq : q.getLsbD 7 = false) (P : Prop) [Decidable P] :
    (q ||| if P then dpMask else 0x00#8) &&& 0x7F#8 = q ∧
      ((q ||| if P then dpMask else 0x00#8).getLsbD 7 = true ↔ P) := by
  by_cases hP : P
  · simp only [hP, if_true, iff_true]
    revert hq; revert q; decide
  · simp only [hP, if_false, iff_false]
    revert hq; revert q; decide

/-- Settles O43: a block reset and run meets the invariant, its TICK latches, and nothing after it does. -/
theorem theDriverHoldsWhatTheLastTickLatched : Obligations.TheDriverHoldsWhatTheLastTickLatched := by
  intro s w0 w ws1 ws2 hp hr0 hr ht htail hrtail
  have hinit : Inv (s.afterWord w0) := inv_of_block_reset hp (afterWord_of_reset s hr0)
  refine ⟨_, _, runWords_eq _ s hp, runWords_eq _ s hp, ?_⟩
  rw [← List.cons_append, List.foldl_append, List.foldl_cons]
  have hinv : Inv ((w0 :: ws1).foldl State.afterWord s) := hinit.foldl_afterWord ws1
  generalize (w0 :: ws1).foldl State.afterWord s = t1 at hinv ⊢
  obtain ⟨hidx, hpat, -⟩ := foldl_afterWord_of_noTick ws2 (t1.afterWord w) htail hrtail
  rw [afterWord_of_not_reset t1 hr] at hidx hpat
  simp only [ht, if_true] at hidx hpat
  obtain ⟨q, hq⟩ := cellAt_of_ne_none (shownDigits t1.block) hinv.cursor
  obtain ⟨hcell, hpoint⟩ := or_dpMask_parts (cellAt_bit7 (shownDigits_bit7Clear hinv.active hinv.shadow) hq)
    (t1.block.dpPos = t1.block.cursor)
  rw [hidx, hpat, drivePattern_of_cell hq]
  exact ⟨rfl, hinv.cursor, ⟨q, cellAt_shownDigits hq, hcell⟩, hpoint⟩

/-! ### An unfinished sum -/

/-- Two states whose blocks are alike but for acc_sum, as far as cycle words act on them. -/
structure SameButSum (s t : State) : Prop where
  params : t.params = s.params
  steps  : t.steps = s.steps
  block  : ∃ x, t.block = { s.block with accSum := x }

/-- The outputs do not read acc_sum (R27). -/
theorem SameButSum.outputs_eq {s t : State} (h : SameButSum s t) : t.outputs = s.outputs := by
  obtain ⟨x, hb⟩ := h.block
  simp only [State.outputs, h.params, hb]
  rfl

/-- A cycle without RESET that does not complete the window keeps the two states alike. -/
theorem SameButSum.afterWord {s t : State} (h : SameButSum s t) {w : CycleWord} (hr : evRst w = false)
    (hopen : (evSample w && windowEnds s.params s.block) = false) :
    SameButSum (s.afterWord w) (t.afterWord w) := by
  obtain ⟨hparams, hsteps, x, hb⟩ := h
  have hends : windowEnds t.params t.block = windowEnds s.params s.block := by rw [hparams, hb]; rfl
  refine ⟨hparams, congrArg (· + 1) hsteps, (t.afterWord w).block.accSum, ?_⟩
  simp only [afterWord_of_not_reset _ hr, hends, hopen]
  simp [hparams, hsteps, hb, shownDigits, swapFires]

/-- A word carries one sample or none. -/
theorem length_samplesOf_cons (w : CycleWord) (ws : List CycleWord) :
    (samplesOf (w :: ws)).length = (samplesOf ws).length + if evSample w then 1 else 0 := by
  cases hs : evSample w <;> simp [samplesOf, hs]

/-- The count grows by no more than the samples taken. -/
theorem accCnt_afterWord_add_le (s : State) {w : CycleWord} (hr : evRst w = false) (ws : List CycleWord) :
    (s.afterWord w).block.accCnt + (samplesOf ws).length ≤ s.block.accCnt + (samplesOf (w :: ws)).length := by
  simp only [afterWord_of_not_reset s hr, length_samplesOf_cons]
  split_ifs <;> omega

/-- What is observed of a run over words: the outputs now, and what is observed after the first word. -/
theorem observe_feed_cons {s : State} (hp : s.params.legal = true) (w : CycleWord) (ws : List CycleWord) :
    observe (w :: ws).length (s.feed (w :: ws)) = s.outputs :: observe ws.length ((s.afterWord w).feed ws) := by
  simp only [List.length_cons, observe, step_feed_cons hp]
  rfl

/-- Runs from two states alike but for acc_sum are observed alike while the window is not completed. -/
theorem SameButSum.observe_eq (ws : List CycleWord) {s t : State} (h : SameButSum s t) (hp : s.params.legal = true)
    (hr : noReset ws) (hopen : s.block.accCnt + (samplesOf ws).length < s.params.window) :
    observe ws.length (s.feed ws) = observe ws.length (t.feed ws) := by
  induction ws generalizing s t with
  | nil => rfl
  | cons w ws ih =>
    obtain ⟨hrw, hrws⟩ := List.forall_mem_cons.1 hr
    have hnot : (evSample w && windowEnds s.params s.block) = false := by
      rw [Bool.and_eq_false_imp, ← Bool.not_eq_true, windowEnds_iff]
      intro hs
      rw [length_samplesOf_cons, if_pos hs] at hopen
      omega
    have hrest := ih (h.afterWord hrw hnot) hp hrws ((accCnt_afterWord_add_le s hrw ws).trans_lt hopen)
    rw [observe_feed_cons hp, observe_feed_cons (h.params ▸ hp), h.outputs_eq, hrest]

/-- Settles O46: the two blocks are alike but for acc_sum, and stay so. -/
theorem anUnfinishedSumIsNotObservable : Obligations.AnUnfinishedSumIsNotObservable := fun _ x ws hp hr hopen =>
  SameButSum.observe_eq ws ⟨rfl, rfl, x, rfl⟩ hp hr hopen

end Sys2Proof.Machine
end

section
/-! PROOFS. 20_memory.md: a frame shows one generation (R33, R68), a set wins over a clear of the same cycle (R37, R81),
and the operations that are idempotent (R34). -/

namespace Sys2Proof.Machine

/-! ### A frame shows one generation -/

/-- The block is at tick `k` of a frame (0, 1 or 2) that shows the buffer `g`: the driver shows cell `k` of it, its
decimal point apart, and the cursor names the position after `k` (R67, R70). -/
structure ShowsFrame (g : Digits) (k : Nat) (b : Block) : Prop where
  active : b.active = g
  drvIdx : b.drvIdx.toNat = k
  cursor : b.cursor.toNat = (k + 1) % 3
  cell   : ∃ q, cellAt g b.drvIdx = some q ∧ b.drvPat &&& 0x7F#8 = q &&& 0x7F#8

/-- The decimal point joined to a pattern does not touch its segments (R42, R69). -/
theorem or_dpMask_segments (q : Pattern) (P : Prop) [Decidable P] :
    (q ||| if P then dpMask else 0x00#8) &&& 0x7F#8 = q &&& 0x7F#8 := by
  split_ifs <;> revert q <;> decide

/-- A swap needs cursor 0, so a TICK at any other position shows the buffer that is active (R68). -/
theorem shownDigits_of_cursor_ne_zero {b : Block} (h : b.cursor ≠ 0#2) : shownDigits b = b.active := by
  simp [shownDigits, swapFires, h]

theorem shownDigits_of_cursor_zero {b : Block} (h : b.cursor = 0#2) :
    shownDigits b = if b.pending then b.shadow else b.active := by
  simp [shownDigits, swapFires, h]

/-- A TICK shows the cell its cursor names, of the buffer it leaves in active. -/
theorem showsFrame_afterWord_of_tick {s : State} {w : CycleWord} (hr : evRst w = false) (ht : evTick w = true)
    (hc : s.block.cursor.toNat < 3) :
    ShowsFrame (shownDigits s.block) s.block.cursor.toNat (s.afterWord w).block := by
  obtain ⟨q, hq⟩ := cellAt_of_ne_none (shownDigits s.block) (posCode_ne_none hc)
  constructor <;> simp only [afterWord_of_not_reset s hr, ht, if_true]
  case cursor => exact nextCursor_toNat s.steps hc
  case cell => exact ⟨q, hq, by rw [drivePattern_of_cell hq, or_dpMask_segments]⟩

/-- The next TICK of the frame shows the next cell of the same buffer. -/
theorem ShowsFrame.afterWord_of_tick {g : Digits} {k : Nat} {s : State} (h : ShowsFrame g k s.block) (hk : k < 2)
    {w : CycleWord} (hr : evRst w = false) (ht : evTick w = true) : ShowsFrame g (k + 1) (s.afterWord w).block := by
  have hcursor : s.block.cursor.toNat = k + 1 := by rw [h.cursor, Nat.mod_eq_of_lt (by omega)]
  have hne : s.block.cursor ≠ 0#2 := fun hzero => by simp [hzero] at hcursor
  have hshown : shownDigits s.block = g := (shownDigits_of_cursor_ne_zero hne).trans h.active
  have htick := showsFrame_afterWord_of_tick hr ht (s := s) (by omega)
  rwa [hshown, hcursor] at htick

/-- A cycle without TICK and RESET leaves the frame where it is. -/
theorem ShowsFrame.afterWord_of_noTick {g : Digits} {k : Nat} {s : State} (h : ShowsFrame g k s.block)
    {w : CycleWord} (hr : evRst w = false) (ht : evTick w = false) : ShowsFrame g k (s.afterWord w).block := by
  constructor <;> simp only [afterWord_of_not_reset s hr, ht, Bool.false_eq_true, if_false]
  exacts [h.active, h.drvIdx, h.cursor, h.cell]

theorem tickTotal_cons (w : CycleWord) (ws : List CycleWord) :
    tickTotal (w :: ws) = tickTotal ws + if evTick w then 1 else 0 :=
  List.countP_cons

/-- Over a run the frame goes on by one position for each TICK, up to its last. -/
theorem ShowsFrame.foldl_afterWord (ws : List CycleWord) {g : Digits} {k : Nat} {s : State}
    (h : ShowsFrame g k s.block) (hr : noReset ws) (hk : k + tickTotal ws ≤ 2) :
    ShowsFrame g (k + tickTotal ws) (ws.foldl State.afterWord s).block := by
  induction ws generalizing k s with
  | nil => exact h
  | cons w ws ih =>
    obtain ⟨hrw, hrws⟩ := List.forall_mem_cons.1 hr
    rw [tickTotal_cons] at hk ⊢
    cases ht : evTick w
    case false =>
      simp only [ht, Bool.false_eq_true, if_false, Nat.add_zero] at hk ⊢
      exact ih (h.afterWord_of_noTick hrw ht) hrws hk
    case true =>
      simp only [ht, if_true, ← Nat.add_assoc, Nat.add_right_comm k] at hk ⊢
      exact ih (h.afterWord_of_tick (by omega) hrw ht) hrws hk

/-- Settles O38: the tick with cursor 0 begins a frame, in which the run stays. -/
theorem aFrameShowsOneGeneration : Obligations.AFrameShowsOneGeneration := by
  intro s w ws hp hc hr ht hrws hticks g
  have hstart : ShowsFrame g 0 (s.afterWord w).block := by
    simpa [shownDigits_of_cursor_zero, hc] using showsFrame_afterWord_of_tick hr ht (s := s) (by simp [hc])
  have hend := hstart.foldl_afterWord ws hrws (by omega)
  rw [Nat.zero_add] at hend
  exact ⟨_, runWords_eq (w :: ws) s hp, hend.active, hend.drvIdx, hend.cell⟩

/-! ### A set and a clear in one cycle -/

/-- The sub-counter raises due exactly at SAMPLE_DIV-1 (R71). -/
theorem raisesDue_iff (p : Params) (sub : Nat) : raisesDue p sub = true ↔ sub + 1 = p.sampleDiv := by
  simp [raisesDue]

/-- Settles O24: the flags after the cycle, and the buffers the TICK and the PUBLISH of it read. -/
theorem setWinsOverClear : Obligations.SetWinsOverClear := by
  intro s w hp hr ht
  refine ⟨s.afterWord w, step_feed_cons hp w [], ?_⟩
  have hswap (hc : s.block.cursor = 0#2) (hpend : s.block.pending = true) : swapFires s.block = true :=
    (swapFires_iff s.block).2 ⟨hc, hpend⟩
  simp only [afterWord_of_not_reset s hr, ht, if_true, Bool.true_and]
  refine ⟨fun hraise => ?raise, fun hs hend => ⟨?publish, fun hc hpend => ?copy⟩, fun hs hc hpend => ?swap⟩
  case raise => exact (nextDue_iff ..).2 (.inl ((raisesDue_iff ..).2 hraise))
  case publish => simp [nextPending_iff, hs, (windowEnds_iff ..).2 hend]
  case copy => simp [shownDigits, hswap hc hpend]
  case swap => simp [shownDigits, hswap hc hpend, hs, nextPending]

/-! ### Idempotent operations -/

theorem nextDue_nextDue (set clear due : Bool) : nextDue set clear (nextDue set clear due) = nextDue set clear due := by
  cases set <;> cases clear <;> rfl

theorem nextPending_nextPending (set clear pending : Bool) :
    nextPending set clear (nextPending set clear pending) = nextPending set clear pending := by
  cases set <;> cases clear <;> rfl

/-- The same writes at two clock edges in a row leave what they leave at one, but for the count down of the blanking. -/
theorem Block.commit_commit (p : Params) (b : Block) {x : Writes} (h : x.blankCnt = none) :
    (b.commit p x).commit p x = { b.commit p x with blankCnt := (b.commit p x).blankCnt - 1 } := by
  have hwrite {α : Type} (o : Option α) (a : α) : o.getD (o.getD a) = o.getD a := by cases o <;> rfl
  cases hr : x.reset
  case true => simp only [Block.commit_of_reset p _ hr]; rfl
  case false =>
    simp only [Block.commit_of_not_reset p _ hr, hwrite, nextDue_nextDue, nextPending_nextPending, h, Option.getD_none]

/-- Settles O27: what these operations write does not depend on the state. -/
theorem resetAckAndDpWriteAreIdempotent : Obligations.ResetAckAndDpWriteAreIdempotent := by
  rintro s i (rfl | rfl | ⟨d, rfl⟩)
  · exact ⟨_, _, rfl, rfl, Block.commit_commit s.params s.block (x := resetWrites) rfl⟩
  · exact ⟨_, _, rfl, rfl, Block.commit_commit s.params s.block (x := dueAckWrites) rfl⟩
  · exact ⟨_, _, rfl, rfl, Block.commit_commit s.params s.block (x := dpWriteWrites d) rfl⟩

end Sys2Proof.Machine
end

section
/-! PROOFS. 30_encoding.md: what decoding reads from an encoding, and encoding from a decoding (R39 to R41, R48, R49,
R54), the selection of operations by the opcode table (R40), what an unused operand bit does (R41, R95), the
pseudo-instructions (R49), and the lines of the display (R46, R47, R73, R74). -/

namespace Sys2Proof.Machine

/-! ### The fields of a word -/

@[simp] theorem evRst_or (w x : CycleWord) : evRst (w ||| x) = (evRst w || evRst x) := BitVec.getLsbD_or
@[simp] theorem evTick_or (w x : CycleWord) : evTick (w ||| x) = (evTick w || evTick x) := BitVec.getLsbD_or
@[simp] theorem evSample_or (w x : CycleWord) : evSample (w ||| x) = (evSample w || evSample x) := BitVec.getLsbD_or
@[simp] theorem evAck_or (w x : CycleWord) : evAck (w ||| x) = (evAck w || evAck x) := BitVec.getLsbD_or
@[simp] theorem evDpWe_or (w x : CycleWord) : evDpWe (w ||| x) = (evDpWe w || evDpWe x) := BitVec.getLsbD_or
@[simp] theorem fieldSample_or (w x : CycleWord) : fieldSample (w ||| x) = fieldSample w ||| fieldSample x :=
  BitVec.extractLsb'_or
@[simp] theorem fieldDp_or (w x : CycleWord) : fieldDp (w ||| x) = fieldDp w ||| fieldDp x := BitVec.extractLsb'_or

/-- The event bits of one operation's word: its own alone (R39, R40). -/
theorem getLsbD_encodeWord (i : Instr) {k : Nat} (hpos : 0 < k) (hlt : k < 5) :
    (encodeWord i).getLsbD k = (i.event? == some k) := by
  cases i <;> interval_cases k <;> simp [encodeWord, Instr.event?]

@[simp] theorem evRst_encodeWord (i : Instr) : evRst (encodeWord i) = (i == .reset) := by
  cases i <;> simp [evRst, encodeWord]
@[simp] theorem evTick_encodeWord (i : Instr) : evTick (encodeWord i) = (i.event? == some 1) :=
  getLsbD_encodeWord i (by decide) (by decide)
@[simp] theorem evSample_encodeWord (i : Instr) : evSample (encodeWord i) = (i.event? == some 2) :=
  getLsbD_encodeWord i (by decide) (by decide)
@[simp] theorem evAck_encodeWord (i : Instr) : evAck (encodeWord i) = (i.event? == some 3) :=
  getLsbD_encodeWord i (by decide) (by decide)
@[simp] theorem evDpWe_encodeWord (i : Instr) : evDpWe (encodeWord i) = (i.event? == some 4) :=
  getLsbD_encodeWord i (by decide) (by decide)

/-- The fixed bits of SAMPLE's word do not reach into the operand fields. -/
theorem sampleMatch_getElem : ∀ k (h : k < 17), 5 ≤ k → (0x00004#17)[k] = false := by decide

@[simp] theorem fieldSample_encodeWord_sample (v : RawSample) : fieldSample (encodeWord (.sample v)) = v := by
  ext i hi
  have hwide : 5 + i < 17 ∧ i < 17 := by omega
  have hmatch : (0x00004#17)[5 + i] = false := sampleMatch_getElem _ hwide.1 (by omega)
  simp [fieldSample, encodeWord, hi, hwide, hmatch]

@[simp] theorem fieldSample_encodeWord_publish (v : RawSample) : fieldSample (encodeWord (.publish v)) = v :=
  fieldSample_encodeWord_sample v

/-- The sample field is 0 in the word of an operation that has none (R49). -/
theorem fieldSample_encodeWord {i : Instr} (h : i.event? ≠ some 2) : fieldSample (encodeWord i) = 0#10 := by
  cases i with
  | sample v | publish v => exact absurd rfl h
  | dpWrite d => revert d; decide
  | reset | tick | dueAck | nop | encode v => simp only [encodeWord]; decide

@[simp] theorem fieldSample_encodeWord_tick : fieldSample (encodeWord .tick) = 0#10 :=
  fieldSample_encodeWord (by decide)

@[simp] theorem fieldDp_encodeWord_dpWrite (d : PosCode) : fieldDp (encodeWord (.dpWrite d)) = d := by
  revert d; decide

@[simp] theorem fieldDp_encodeWord_sample (v : RawSample) : fieldDp (encodeWord (.sample v)) = 0#2 := by
  ext i hi
  have hwide : 15 + i < 17 := by omega
  have hmatch : (0x00004#17)[15 + i] = false := sampleMatch_getElem _ hwide (by omega)
  have hpast : v.getLsbD (15 + i - 5) = false := BitVec.getLsbD_of_ge _ _ (by omega)
  simp [fieldDp, encodeWord, hwide, hmatch, hpast]

@[simp] theorem fieldDp_encodeWord_publish (v : RawSample) : fieldDp (encodeWord (.publish v)) = 0#2 :=
  fieldDp_encodeWord_sample v

@[simp] theorem fieldDp_encodeWord_tick : fieldDp (encodeWord .tick) = 0#2 := by decide
@[simp] theorem fieldDp_encodeWord_dueAck : fieldDp (encodeWord .dueAck) = 0#2 := by decide

/-! ### Legal lists of operations -/

/-- A list of operations with event bits of their own, in the order of those bits, each at most once (R40). -/
def EventsWf (windowEnd : Bool) (ops : List Instr) : Prop :=
  (∀ i ∈ ops, i.event?.isSome = true ∧ i.fitsWindow windowEnd = true) ∧
    (ops.filterMap Instr.event?).Pairwise (· < ·)

theorem EventsWf.of_cons {we : Bool} {i : Instr} {is : List Instr} (h : EventsWf we (i :: is)) :
    ∃ e, i.event? = some e ∧ i.fitsWindow we = true ∧ (∀ j ∈ is, ∃ e', j.event? = some e' ∧ e < e') ∧
      EventsWf we is := by
  obtain ⟨hall, hsorted⟩ := h
  obtain ⟨⟨hi, hfit⟩, his⟩ := List.forall_mem_cons.1 hall
  obtain ⟨e, he⟩ := Option.isSome_iff_exists.1 hi
  rw [List.filterMap_cons_some he, List.pairwise_cons] at hsorted
  refine ⟨e, he, hfit, fun j hj => ?_, his, hsorted.2⟩
  obtain ⟨e', he'⟩ := Option.isSome_iff_exists.1 (his j hj).1
  exact ⟨e', he', hsorted.1 e' (List.mem_filterMap.2 ⟨j, hj, he'⟩)⟩

/-- What one cycle word can select: RESET, NOP, or a list by event bits. -/
theorem clockedWf_iff (we : Bool) (ops : List Instr) :
    clockedWf we ops = true ↔ ops = [.reset] ∨ ops = [.nop] ∨ (ops ≠ [] ∧ EventsWf we ops) := by
  simp [clockedWf, EventsWf, or_assoc, and_assoc]

/-- What one cycle can perform: what its word selects, or that with ENCODE after it in NOP's place. -/
theorem cycleWf_iff (we : Bool) (ops : List Instr) :
    cycleWf we ops = true ↔ clockedWf we ops = true ∨
      ∃ init v, ops = init ++ [.encode v] ∧ (init = [] ∨ (init ≠ [.nop] ∧ clockedWf we init = true)) := by
  have hencode (i : Instr) : i.encValue?.isSome = true ↔ ∃ v, i = .encode v := by
    cases i <;> simp [Instr.encValue?]
  rcases ops.eq_nil_or_concat' with rfl | ⟨init, i, rfl⟩
  · simp [cycleWf]
  · simp [cycleWf, hencode]

/-! ### Decoding an encoding -/

/-- The word has no event bit up to `e`, and the operand fields of the events up to `e` are 0. -/
structure UsesOnlyAbove (e : Nat) (w : CycleWord) : Prop where
  events : ∀ k ≤ e, w.getLsbD k = false
  sample : 2 ≤ e → fieldSample w = 0#10
  dpPos  : 4 ≤ e → fieldDp w = 0#2

theorem UsesOnlyAbove.or {e : Nat} {w x : CycleWord} (hw : UsesOnlyAbove e w) (hx : UsesOnlyAbove e x) :
    UsesOnlyAbove e (w ||| x) where
  events k hk := by simp [hw.events k hk, hx.events k hk]
  sample h := by simp [hw.sample h, hx.sample h]
  dpPos h := by simp [hw.dpPos h, hx.dpPos h]

theorem event?_bounds {i : Instr} {e : Nat} (h : i.event? = some e) : 0 < e ∧ e < 5 := by
  cases i <;> cases h <;> decide

theorem usesOnlyAbove_encodeWord {i : Instr} {e e' : Nat} (hi : i.event? = some e') (he : e < e') :
    UsesOnlyAbove e (encodeWord i) where
  events k hk := by
    rcases Nat.eq_zero_or_pos k with rfl | hpos
    · rw [← evRst, evRst_encodeWord]
      cases i <;> simp [Instr.event?] at hi ⊢
    · have := event?_bounds hi
      have hne : e' ≠ k := by omega
      simp [getLsbD_encodeWord i hpos (by omega), hi, hne]
  sample h := by
    have hne : e' ≠ 2 := by omega
    exact fieldSample_encodeWord (by simp [hi, hne])
  dpPos h := by have := event?_bounds hi; omega

theorem usesOnlyAbove_encodeCycle {e : Nat} (is : List Instr) (h : ∀ i ∈ is, ∃ e', i.event? = some e' ∧ e < e') :
    UsesOnlyAbove e (encodeCycle is) := by
  induction is with
  | nil => exact ⟨fun _ _ => BitVec.getLsbD_zero, fun _ => rfl, fun _ => rfl⟩
  | cons i is ih =>
    obtain ⟨⟨e', hi, he⟩, his⟩ := List.forall_mem_cons.1 h
    exact (usesOnlyAbove_encodeWord hi he).or (ih his)

/-- An operation joined to a word with later events only is selected first, and the word's own after it. -/
theorem eventOps_encodeWord_or {we : Bool} {i : Instr} {e : Nat} {w : CycleWord} (hi : i.event? = some e)
    (hfit : i.fitsWindow we = true) (hw : UsesOnlyAbove e w) :
    eventOps we (encodeWord i ||| w) = i :: eventOps we w := by
  have hrst : evRst w = false := hw.events 0 (Nat.zero_le e)
  have htick (h : 1 ≤ e) : evTick w = false := hw.events 1 h
  have hsample (h : 2 ≤ e) : evSample w = false := hw.events 2 h
  have hack (h : 3 ≤ e) : evAck w = false := hw.events 3 h
  have hdpWe (h : 4 ≤ e) : evDpWe w = false := hw.events 4 h
  cases i <;> cases hi
  case tick => simp [eventOps, Instr.event?, hrst, htick]
  case sample v =>
    have hopen : we = false := by simpa [Instr.fitsWindow] using hfit
    simp [eventOps, Instr.event?, hrst, htick, hsample, hopen, hw.sample]
  case publish v =>
    have hend : we = true := hfit
    simp [eventOps, Instr.event?, hrst, htick, hsample, hend, hw.sample]
  case dueAck => simp [eventOps, Instr.event?, hrst, htick, hsample, hack]
  case dpWrite d => simp [eventOps, Instr.event?, hrst, htick, hsample, hack, hdpWe, hw.dpPos]

/-- The operations of a legal list by event bits are read back from the joined word. -/
theorem eventOps_encodeCycle {we : Bool} (ops : List Instr) (h : EventsWf we ops) :
    eventOps we (encodeCycle ops) = ops := by
  induction ops with
  | nil => rfl
  | cons i is ih =>
    obtain ⟨e, hi, hfit, habove, his⟩ := h.of_cons
    rw [encodeCycle, eventOps_encodeWord_or hi hfit (usesOnlyAbove_encodeCycle is habove), ih his]

/-- So are those of any legal list but NOP's, which has no event bit. -/
theorem eventOps_encodeCycle_of_clockedWf {we : Bool} {ops : List Instr} (h : clockedWf we ops = true)
    (hnop : ops ≠ [.nop]) : eventOps we (encodeCycle ops) = ops := by
  rcases (clockedWf_iff we ops).1 h with rfl | rfl | ⟨-, hwf⟩
  · rfl
  · exact absurd rfl hnop
  · exact eventOps_encodeCycle ops hwf

theorem selectedOps_encodeCycle {we : Bool} {ops : List Instr} (h : clockedWf we ops = true) :
    selectedOps we (encodeCycle ops) = ops := by
  by_cases hnop : ops = [.nop]
  · subst hnop; cases we <;> rfl
  · have hne : ops ≠ [] := by rintro rfl; simp [clockedWf] at h
    simp [selectedOps, eventOps_encodeCycle_of_clockedWf h hnop, hne]

theorem encodeCycle_append (xs ys : List Instr) : encodeCycle (xs ++ ys) = encodeCycle xs ||| encodeCycle ys := by
  induction xs with
  | nil => simp [encodeCycle]
  | cons i is ih => simp [encodeCycle, ih, BitVec.or_assoc]

/-- ENCODE adds nothing to the cycle word (R54). -/
@[simp] theorem encodeCycle_append_encode (ops : List Instr) (v : EncValue) :
    encodeCycle (ops ++ [.encode v]) = encodeCycle ops := by
  simp [encodeCycle_append, encodeCycle, encodeWord]

/-- What a word selects presents nothing to ENC. -/
theorem encValue_of_clockedWf {we : Bool} {ops : List Instr} (h : clockedWf we ops = true) :
    ops.findSome? Instr.encValue? = none :=
  selectedOps_encodeCycle h ▸ encValue_selectedOps we (encodeCycle ops)

/-- Settles O2: the word is read back by its events, and the value at ENC from ENC's own input. -/
theorem decodeOfEncodeIsTheCycle : Obligations.DecodeOfEncodeIsTheCycle := by
  intro we ops h
  rcases (cycleWf_iff we ops).1 h with hclocked | ⟨init, v, rfl, hinit⟩
  · simp [decodeInput, encodeInput, encValue_of_clockedWf hclocked, selectedOps_encodeCycle hclocked]
  · have hword : eventOps we (encodeCycle init) = init ∧ init.findSome? Instr.encValue? = none := by
      rcases hinit with rfl | ⟨hnop, hclocked⟩
      · exact ⟨rfl, rfl⟩
      · exact ⟨eventOps_encodeCycle_of_clockedWf hclocked hnop, encValue_of_clockedWf hclocked⟩
    simp [decodeInput, encodeInput, hword, Instr.encValue?]

/-- One operation is a legal cycle of its own in the state that selects it. -/
theorem cycleWf_singleton {we : Bool} {i : Instr} (h : i.fitsWindow we = true) : cycleWf we [i] = true := by
  cases i <;> simp [cycleWf, clockedWf, Instr.event?, Instr.encValue?, h]

theorem encodeInput_singleton (i : Instr) : encodeInput [i] = encodeInstr i := by
  simp [encodeInput, encodeInstr, encodeCycle]

/-- Settles O1: one operation, in a state that selects it, is a legal cycle of its own. -/
theorem decodeOfEncodeIsTheOperation : Obligations.DecodeOfEncodeIsTheOperation := by
  intro we i hfit
  rw [← encodeInput_singleton]
  exact decodeOfEncodeIsTheCycle we [i] (cycleWf_singleton hfit)

/-! ### The rows of the opcode table -/

/-- What the event bits of a word say of one operation (R40, R41). -/
def EventSelects (windowEnd : Bool) (w : CycleWord) : Instr → Prop
  | .reset     => evRst w = true
  | .tick      => evRst w = false ∧ evTick w = true
  | .sample v  => evRst w = false ∧ evSample w = true ∧ windowEnd = false ∧ v = fieldSample w
  | .publish v => evRst w = false ∧ evSample w = true ∧ windowEnd = true ∧ v = fieldSample w
  | .dueAck    => evRst w = false ∧ evAck w = true
  | .dpWrite d => evRst w = false ∧ evDpWe w = true ∧ d = fieldDp w
  | .nop       => False
  | .encode _  => False

theorem mem_eventOps_iff (we : Bool) (w : CycleWord) (i : Instr) : i ∈ eventOps we w ↔ EventSelects we w i := by
  cases hr : evRst w
  case true => cases i <;> simp [eventOps, EventSelects, hr]
  case false => cases we <;> cases i <;> simp [eventOps, EventSelects, hr]

/-- A word selects by its event bits nothing exactly when it has none. -/
theorem eventOps_eq_nil_iff (we : Bool) (w : CycleWord) :
    eventOps we w = [] ↔ evRst w = false ∧ evTick w = false ∧ evSample w = false ∧ evAck w = false ∧
      evDpWe w = false := by
  cases hr : evRst w <;> simp [eventOps, hr]

theorem mem_selectedOps_iff (we : Bool) (w : CycleWord) (i : Instr) :
    i ∈ selectedOps we w ↔ EventSelects we w i ∨ (i = .nop ∧ eventOps we w = []) := by
  rw [← mem_eventOps_iff]
  by_cases hnil : eventOps we w = [] <;> simp [selectedOps, hnil]

theorem mem_decodeInput_iff (we : Bool) (x : Input) (i : Instr) :
    i ∈ decodeInput we x ↔ EventSelects we x.word i ∨ (i = .nop ∧ eventOps we x.word = [] ∧ x.enc = none) ∨
      ∃ v, i = .encode v ∧ x.enc = some v := by
  cases he : x.enc with
  | none => simp [decodeInput, he, mem_selectedOps_iff]
  | some v => simp [decodeInput, he, mem_eventOps_iff]

theorem and_evRst (w : CycleWord) : w &&& 0x00001#17 = if evRst w then 0x00001#17 else 0#17 :=
  BitVec.and_twoPow w 0

/-- A row that excludes RESET and asks for one other event bit. -/
theorem and_rowMask_eq_iff (w : CycleWord) {k : Nat} (hpos : 0 < k) (hlt : k < 17) :
    w &&& (0x00001#17 ||| BitVec.twoPow 17 k) = BitVec.twoPow 17 k ↔ evRst w = false ∧ w.getLsbD k = true := by
  have hdistinct : ∀ k < 17, 0 < k → 0x00001#17 ≠ BitVec.twoPow 17 k ∧ 0#17 ≠ BitVec.twoPow 17 k ∧
      0x00001#17 ||| BitVec.twoPow 17 k ≠ BitVec.twoPow 17 k := by decide
  obtain ⟨hrst, hzero, hboth⟩ := hdistinct k hlt hpos
  rw [BitVec.and_or_distrib_left, and_evRst, BitVec.and_twoPow]
  cases evRst w <;> cases w.getLsbD k <;> simp [hrst, hzero, hboth]

theorem and_eventMask (w : CycleWord) :
    w &&& 0x0001F#17 = (if evRst w then 0x00001#17 else 0#17) ||| (if evTick w then 0x00002#17 else 0#17) |||
      (if evSample w then 0x00004#17 else 0#17) ||| (if evAck w then 0x00008#17 else 0#17) |||
      (if evDpWe w then 0x00010#17 else 0#17) := by
  have hsplit : 0x0001F#17 = BitVec.twoPow 17 0 ||| BitVec.twoPow 17 1 ||| BitVec.twoPow 17 2 |||
      BitVec.twoPow 17 3 ||| BitVec.twoPow 17 4 := by decide
  simp only [hsplit, BitVec.and_or_distrib_left, BitVec.and_twoPow]
  rfl

/-- NOP's row: no event bit. -/
theorem and_eventMask_eq_zero_iff (we : Bool) (w : CycleWord) :
    w &&& 0x0001F#17 = 0x00000#17 ↔ eventOps we w = [] := by
  simp [and_eventMask, eventOps_eq_nil_iff, and_assoc]

/-- Settles O4: the masks are those of the event bits, and what is selected is what the event bits say. -/
theorem selectionFollowsTheOpcodeTable : Obligations.SelectionFollowsTheOpcodeTable := by
  intro we x w ops
  have hrst : w &&& 0x00001#17 = 0x00001#17 ↔ evRst w = true := by simp [and_evRst]
  have htick : w &&& 0x00003#17 = 0x00002#17 ↔ evRst w = false ∧ evTick w = true :=
    and_rowMask_eq_iff w (k := 1) (by decide) (by decide)
  have hsample : w &&& 0x00005#17 = 0x00004#17 ↔ evRst w = false ∧ evSample w = true :=
    and_rowMask_eq_iff w (k := 2) (by decide) (by decide)
  have hack : w &&& 0x00009#17 = 0x00008#17 ↔ evRst w = false ∧ evAck w = true :=
    and_rowMask_eq_iff w (k := 3) (by decide) (by decide)
  have hdpWe : w &&& 0x00011#17 = 0x00010#17 ↔ evRst w = false ∧ evDpWe w = true :=
    and_rowMask_eq_iff w (k := 4) (by decide) (by decide)
  simp only [ops, mem_decodeInput_iff, mem_selectedOps_iff, EventSelects, hrst, htick, hsample, hack, hdpWe,
    and_eventMask_eq_zero_iff we]
  simp [fieldSample, fieldDp, and_assoc, w]

/-! ### Encoding a decoding -/

/-- The events of a word stand in the order of its event bits, each at most once. -/
theorem events_eventOps_sublist (we : Bool) {w : CycleWord} (hr : evRst w = false) :
    ((eventOps we w).filterMap Instr.event?).Sublist [1, 2, 3, 4] := by
  have hpart (strobe : Bool) {i : Instr} {e : Nat} (he : i.event? = some e) :
      ((if strobe then [i] else []).filterMap Instr.event?).Sublist [e] := by
    cases strobe <;> simp [he]
  have hsample : (if we then Instr.publish (fieldSample w) else .sample (fieldSample w)).event? = some 2 := by
    cases we <;> rfl
  simp only [eventOps, hr, Bool.false_eq_true, if_false, List.filterMap_append]
  exact (((hpart _ rfl).append (hpart _ hsample)).append (hpart _ rfl)).append (hpart _ rfl)

theorem eventsWf_eventOps (we : Bool) {w : CycleWord} (hr : evRst w = false) : EventsWf we (eventOps we w) := by
  refine ⟨fun i hi => ?_, .sublist (events_eventOps_sublist we hr) (by decide)⟩
  rw [mem_eventOps_iff] at hi
  cases i <;> simp_all [EventSelects, Instr.event?, Instr.fitsWindow]

theorem clockedWf_eventOps {we : Bool} {w : CycleWord} (h : eventOps we w ≠ []) :
    clockedWf we (eventOps we w) = true := by
  rw [clockedWf_iff]
  cases hr : evRst w
  case true => exact .inl (by simp [eventOps, hr])
  case false => exact .inr (.inr ⟨h, eventsWf_eventOps we hr⟩)

theorem cycleWf_decodeInput (we : Bool) (x : Input) : cycleWf we (decodeInput we x) = true := by
  rw [cycleWf_iff]
  have hnop : eventOps we x.word ≠ [.nop] := by
    intro h
    exact (mem_eventOps_iff we x.word .nop).1 (by simp [h])
  by_cases hnil : eventOps we x.word = []
  · cases he : x.enc with
    | none => exact .inl (by simp [decodeInput, he, selectedOps, hnil, clockedWf])
    | some v => exact .inr ⟨[], v, by simp [decodeInput, he, hnil], .inl rfl⟩
  · have hclocked := clockedWf_eventOps hnil
    cases he : x.enc with
    | none => exact .inl (by simpa [decodeInput, he, selectedOps, hnil] using hclocked)
    | some v => exact .inr ⟨_, v, by simp [decodeInput, he], .inr ⟨hnop, hclocked⟩⟩

/-- NOP and ENCODE add nothing to the cycle word (R49, R54). -/
theorem encodeCycle_decodeInput (we : Bool) (x : Input) :
    encodeCycle (decodeInput we x) = encodeCycle (eventOps we x.word) := by
  cases he : x.enc with
  | some v => simp [decodeInput, he]
  | none =>
    by_cases hnil : eventOps we x.word = []
    · simp [decodeInput, he, selectedOps, hnil, encodeCycle, encodeWord]
    · simp [decodeInput, he, selectedOps, hnil]

/-- A field of the word put back in its place is the word under the field's mask. -/
theorem extractLsb'_shiftLeft_eq_and (w mask : CycleWord) {start len : Nat}
    (hmask : ∀ i (h : i < 17), mask[i] = (decide (start ≤ i) && decide (i < start + len))) :
    (w.extractLsb' start len).setWidth 17 <<< start = w &&& mask := by
  ext i hi
  by_cases hstart : start ≤ i
  · have hlen : i - start < len ↔ i < start + len := by omega
    simp [hmask, hstart, hlen, hi, BitVec.getLsbD_eq_getElem, Bool.and_comm]
  · simp [hmask, hstart, Nat.lt_of_not_le hstart]

theorem encodeWord_sample_fieldSample (w : CycleWord) :
    encodeWord (.sample (fieldSample w)) = w &&& 0x07FE0#17 ||| 0x00004#17 := by
  rw [encodeWord, fieldSample, extractLsb'_shiftLeft_eq_and w 0x07FE0#17 (by decide)]

theorem encodeWord_dpWrite_fieldDp (w : CycleWord) :
    encodeWord (.dpWrite (fieldDp w)) = w &&& 0x18000#17 ||| 0x00010#17 := by
  rw [encodeWord, fieldDp, extractLsb'_shiftLeft_eq_and w 0x18000#17 (by decide)]

/-- The bits of the word that a selected operation uses: the event bits and the operands of the strobes (R41), or rst
alone (R95). -/
theorem encodeCycle_eventOps (we : Bool) (w : CycleWord) :
    encodeCycle (eventOps we w) =
      w &&& (if evRst w then 0x00001#17
             else 0x0001F#17 ||| (if evSample w then 0x07FE0#17 else 0#17) |||
               (if evDpWe w then 0x18000#17 else 0#17)) := by
  cases hr : evRst w
  case true => simp [and_evRst, hr, eventOps, encodeCycle, encodeWord]
  case false =>
    have hsample : encodeWord (if we then .publish (fieldSample w) else .sample (fieldSample w)) =
        w &&& 0x07FE0#17 ||| 0x00004#17 := by
      cases we <;> exact encodeWord_sample_fieldSample w
    have hword : encodeWord .tick = 0x00002#17 ∧ encodeWord .dueAck = 0x00008#17 := ⟨rfl, rfl⟩
    simp only [Bool.false_eq_true, if_false, BitVec.and_or_distrib_left, and_eventMask, hr]
    cases hs : evSample w <;> cases hd : evDpWe w <;>
      simp [eventOps, encodeCycle_append, encodeCycle, apply_ite encodeCycle, hr, hs, hd, hsample, hword,
        encodeWord_dpWrite_fieldDp] <;>
      ac_rfl

/-- Settles O3: the operations of a word are legal, and their joined words are the bits the word uses. -/
theorem everyCycleWordIsALegalCycle : Obligations.EveryCycleWordIsALegalCycle := by
  intro we x w
  refine ⟨cycleWf_decodeInput we x, ?_⟩
  rw [encodeInput, encValue_decodeInput, encodeCycle_decodeInput, encodeCycle_eventOps]

/-! ### Operand bits that no operation uses -/

/-- Two words with the same event bits, and the same operands where they are used, select the same operations. -/
theorem eventOps_congr (we : Bool) {w w' : CycleWord} (hmask : w &&& 0x0001F#17 = w' &&& 0x0001F#17)
    (hsample : evRst w = false → evSample w = true → fieldSample w = fieldSample w')
    (hdp : evRst w = false → evDpWe w = true → fieldDp w = fieldDp w') : eventOps we w = eventOps we w' := by
  obtain ⟨hr, ht, hs, ha, hd⟩ := evBits_of_mask w w' hmask
  simp only [eventOps, ← hr, ← ht, ← hs, ← ha, ← hd]
  cases hrst : evRst w
  case true => rfl
  case false =>
    refine congrArg₂ (· ++ ·) (congrArg₂ (· ++ ·) (congrArg₂ (· ++ ·) rfl ?_) rfl) ?_
    · exact ite_congr rfl (fun hstrobe => by rw [hsample hrst hstrobe]) fun _ => rfl
    · exact ite_congr rfl (fun hstrobe => by rw [hdp hrst hstrobe]) fun _ => rfl

/-- Settles O26: the two words select the same operations, and the step takes nothing else from them. -/
theorem unusedOperandBitsAreIgnored : Obligations.UnusedOperandBitsAreIgnored := by
  intro s w w' hmask hsample hdp
  apply step_congr
  · change selectedOps (windowEnds s.params s.block) w = selectedOps (windowEnds s.params s.block) w'
    simp only [selectedOps, eventOps_congr _ hmask hsample hdp]
  · rfl

/-! ### Written-out words and pseudo-instructions -/

/-- Settles O5: the words are decoded by evaluation. -/
theorem writtenOutWordsDecode : Obligations.WrittenOutWordsDecode := by
  unfold Obligations.WrittenOutWordsDecode
  decide

theorem selectedOps_encodeWord {we : Bool} {i : Instr} (hfit : i.fitsWindow we = true)
    (hclocked : i.encValue? = none) : selectedOps we (encodeWord i) = [i] := by
  have h := decodeOfEncodeIsTheOperation we i hfit
  rwa [encodeInstr, hclocked] at h

/-- An entry of a list repeated is the entry at the index modulo the list's length. -/
theorem getElem?_flatten_replicate {α : Type*} (k : Nat) (l : List α) {i : Nat} (h : i < k * l.length) :
    (List.replicate k l).flatten[i]? = l[i % l.length]? := by
  induction k generalizing i with
  | zero => omega
  | succ k ih =>
    rw [List.replicate_succ, List.flatten_cons, List.getElem?_append]
    split_ifs with hi
    · rw [Nat.mod_eq_of_lt hi]
    · rw [Nat.add_mul, Nat.one_mul] at h
      rw [ih (by omega), Nat.mod_eq_sub_mod (Nat.le_of_not_lt hi)]

theorem expandLine_frame (p : Params) : expandLine p .frame = (List.replicate 3 (showWords p)).flatten := by
  simp [expandLine, List.replicate]

theorem length_showWords (p : Params) : (showWords p).length = 1 + p.blankCycles := by
  simp [showWords, Nat.add_comm]

/-- SHOW is one TICK and then NOP. -/
theorem getElem?_showWords (p : Params) {j : Nat} (h : j < 1 + p.blankCycles) :
    (showWords p)[j]? = some (encodeWord (if j = 0 then .tick else .nop)) := by
  cases j with
  | zero => rfl
  | succ j =>
    have hj : j < p.blankCycles := by omega
    simp [showWords, hj]

/-- Settles O47: WINDOW repeats one word, and FRAME is SHOW three times over. -/
theorem pseudoInstructionsExpandAsWritten : Obligations.PseudoInstructionsExpandAsWritten := by
  intro p v
  refine ⟨List.length_replicate, fun w hw => ?sample, ?length, fun i hi => ?frame⟩
  case sample =>
    obtain rfl := List.eq_of_mem_replicate hw
    exact selectedOps_encodeWord rfl rfl
  case length =>
    simp only [expandLine_frame, List.length_flatten, List.map_replicate, List.sum_replicate, length_showWords,
      smul_eq_mul]
  case frame =>
    have hmod : i % (1 + p.blankCycles) < 1 + p.blankCycles := Nat.mod_lt _ (by omega)
    rw [expandLine_frame, getElem?_flatten_replicate 3 _ (by rwa [length_showWords]), length_showWords,
      getElem?_showWords p hmod, Option.map_some]
    split_ifs <;> rw [selectedOps_encodeWord rfl rfl]

/-! ### The step -/

/-- Settles O6: the operations run as one cycle, and one operation alone is its cycle. -/
theorem stepRunsTheDecodedOperation : Obligations.StepRunsTheDecodedOperation := by
  intro s x rest hp hin ops
  have hstep : step s = .next (State.cycle { s with inputs := rest } ops) := step_input hp hin
  refine ⟨hstep, fun i hi => ?_⟩
  rw [hstep, hi, exec_eq_cycle]

/-! ### The lines of the display -/

theorem xor_polarity {n : Nat} (activeLow : Bool) (x : BitVec n) :
    (if activeLow then ~~~x else x) = x ^^^ (if activeLow then BitVec.allOnes n else 0#n) := by
  cases activeLow <;> simp

/-- Settles O28: the mask of an active-low bus inverts all of its lines. -/
theorem pinsAreLogicalLevelsXorPolarity : Obligations.PinsAreLogicalLevelsXorPolarity := fun s =>
  ⟨xor_polarity s.params.segActiveLow (segL s.block), xor_polarity s.params.selActiveLow (selL s.block), rfl⟩

theorem visible_iff (b : Block) : visible b = true ↔ b.drvIdx ≠ posNone ∧ b.blankCnt = 0 := by
  simp [visible]

theorem dark_of_not_visible {b : Block} (h : visible b = false) : dark b := by
  simp [dark, selL, segL, h]

theorem onehot3_eq_shift {c : PosCode} (h : c ≠ posNone) : onehot3 c = 1#3 <<< c.toNat := by
  revert h; revert c; decide

theorem onehot3_ne_zero {c : PosCode} (h : c ≠ posNone) : onehot3 c ≠ 0b000#3 := by
  revert h; revert c; decide

theorem ticksSinceReset_concat (ws : List CycleWord) (w : CycleWord) :
    ticksSinceReset (ws ++ [w]) =
      if evRst w then 0 else if evTick w then ticksSinceReset ws + 1 else ticksSinceReset ws := by
  simp [ticksSinceReset]

/-- Once a TICK came after the last RESET the driver shows a position (R21). -/
theorem drvIdx_ne_none_of_ticks (ws : List CycleWord) {s : State} (h : Inv s) (hticks : 1 ≤ ticksSinceReset ws) :
    (ws.foldl State.afterWord s).block.drvIdx ≠ posNone := by
  induction ws using List.reverseRecOn with
  | nil => simp [ticksSinceReset] at hticks
  | append_singleton ws w ih =>
    rw [ticksSinceReset_concat] at hticks
    rw [List.foldl_append, List.foldl_cons, List.foldl_nil]
    have hcursor := (h.foldl_afterWord ws).cursor
    generalize ws.foldl State.afterWord s = t at ih hcursor
    cases hr : evRst w
    case true => simp [hr] at hticks
    case false =>
      rw [afterWord_of_not_reset t hr]
      cases ht : evTick w
      case true => simpa [ht] using hcursor
      case false => simpa using ih (by simpa [hr, ht] using hticks)

/-- Settles O29: what is visible has a position, and after a TICK the driver has one. -/
theorem atMostOneDigitIsSelected : Obligations.AtMostOneDigitIsSelected := by
  refine ⟨fun b => ?lines, fun s w0 ws hp hr0 => ?run⟩
  case lines =>
    cases hv : visible b
    case false => exact .inl (dark_of_not_visible hv)
    case true =>
      obtain ⟨hidx, hblank⟩ := (visible_iff b).1 hv
      have hsel : selL b = 1#3 <<< b.drvIdx.toNat := by rw [selL, if_pos hv, onehot3_eq_shift hidx]
      exact .inr ⟨b.drvIdx, posCode_cases hidx, hsel, rfl, if_pos hv, hblank⟩
  case run =>
    refine ⟨_, runWords_eq (w0 :: ws) s hp, fun hticks hblank => ?_⟩
    have hinit : Inv (s.afterWord w0) := inv_of_block_reset hp (afterWord_of_reset s hr0)
    have hidx := drvIdx_ne_none_of_ticks ws hinit hticks
    rw [List.foldl_cons] at hblank ⊢
    rw [selL, if_pos ((visible_iff _).2 ⟨hidx, hblank⟩)]
    exact onehot3_ne_zero hidx

end Sys2Proof.Machine
end

section
/-! PROOFS. 40_segment_encoder.md: which outputs of ENC are BLANK (R53, R56), that a displayed value can be read back
(R57), and that ENC's input is no input of the block (R50, R54, R55). -/

namespace Sys2Proof.Machine

/-! ### The outputs of ENC -/

/-- A cell that is blanked under `P` and shows a digit otherwise is BLANK exactly under `P`: no table entry is (R52). -/
theorem blanked_eq_blank_iff {p : Params} (hl : p.lutLegal = true) {d : Nat} (hd : d < 10) (P : Prop) [Decidable P] :
    (if P then blankPattern else lut p d) = blankPattern ↔ P := by
  split_ifs with h
  · simp [h]
  · simp [h, lut_ne_blank hl hd]

/-- Hundreds and tens are both zero exactly below 10 (R51, R53). -/
theorem leadingZeros_iff (v : Nat) : v / 100 = 0 ∧ v / 10 % 10 = 0 ↔ v < 10 := by omega

/-- Settles O30: a cell is BLANK where it is blanked, and elsewhere it is a table entry, which is not. -/
theorem encodeBlanksExactlyTheLeadingZeros : Obligations.EncodeBlanksExactlyTheLeadingZeros := by
  intro p draw v hl hv
  rw [encodeDigits_of_le hv]
  refine ⟨?units, ?hundreds, ?tens, bit7Clear_digitsOf hl hv⟩
  case units => exact lut_ne_blank hl (Nat.mod_lt v (by decide))
  case hundreds =>
    calc (digitsOf p v).hundreds = blankPattern
        ↔ v / 100 = 0 := blanked_eq_blank_iff hl (by omega) _
      _ ↔ v < 100 := by omega
  case tens =>
    calc (digitsOf p v).tens = blankPattern
        ↔ v / 100 = 0 ∧ v / 10 % 10 = 0 := blanked_eq_blank_iff hl (Nat.mod_lt _ (by decide)) _
      _ ↔ v < 10 := leadingZeros_iff v

/-! ### Reading a displayed value back -/

@[simp] theorem digitOfPattern_blank (p : Params) : digitOfPattern p blankPattern = some 0 := if_pos rfl

/-- A table entry is read back as its digit: it is not BLANK, and no smaller digit has the same entry (R52). -/
theorem digitOfPattern_lut {p : Params} (hl : p.lutLegal = true) {d : Nat} (hd : d < 10) :
    digitOfPattern p (lut p d) = some d := by
  rw [digitOfPattern, if_neg (lut_ne_blank hl hd), List.find?_range_eq_some]
  refine ⟨beq_self_eq_true _, List.mem_range.2 hd, fun e he => ?_⟩
  have hne : lut p e ≠ lut p d := fun heq => he.ne (lut_inj hl (he.trans hd) hd heq)
  simpa using hne

/-- A cell that blanks no digit but 0 is read back as its digit. -/
theorem digitOfPattern_blanked {p : Params} (hl : p.lutLegal = true) {d : Nat} (hd : d < 10) {P : Prop} [Decidable P]
    (hzero : P → d = 0) : digitOfPattern p (if P then blankPattern else lut p d) = some d := by
  split_ifs with h
  · rw [hzero h, digitOfPattern_blank]
  · exact digitOfPattern_lut hl hd

/-- `Decode` of three cells that are read back as digits. -/
theorem valueOfDigits_of_digits {p : Params} {a : Digits} {h t u : Nat} (hh : digitOfPattern p a.hundreds = some h)
    (ht : digitOfPattern p a.tens = some t) (hu : digitOfPattern p a.units = some u) :
    valueOfDigits p a = some (100 * h + 10 * t + u) := by
  simp only [valueOfDigits, hh, ht, hu]

/-- Settles O31: each cell is read back as its digit, and a value is the sum of its digits. -/
theorem decodingTheDisplayRecoversTheValue : Obligations.DecodingTheDisplayRecoversTheValue := by
  intro p draw v hl hv
  have hhundreds : digitOfPattern p (digitsOf p v).hundreds = some (v / 100) :=
    digitOfPattern_blanked hl (by omega) id
  have htens : digitOfPattern p (digitsOf p v).tens = some (v / 10 % 10) :=
    digitOfPattern_blanked hl (Nat.mod_lt _ (by decide)) And.right
  have hunits : digitOfPattern p (digitsOf p v).units = some (v % 10) :=
    digitOfPattern_lut hl (Nat.mod_lt _ (by decide))
  rw [encodeDigits_of_le hv, valueOfDigits_of_digits hhundreds htens hunits]
  congr 1
  omega

/-! ### The input of ENC -/

/-- ENC's outputs in a cycle with an input placed: those of its line moved on by the value presented (R50). -/
theorem encNow_of_inputs {s : State} {x : Input} {rest : List Input} (h : s.inputs = x :: rest) :
    s.encNow = (s.enc.next s.steps x.enc).out s.params := by
  simp [State.encNow, State.nextInput, h]

/-- Settles O49: a cycle is that of its word, with ENC's line moved on by the value presented. -/
theorem aValueAtEncDoesNotTouchTheBlock : Obligations.AValueAtEncDoesNotTouchTheBlock := by
  intro s x rest hp hin
  refine ⟨_, _, step_input hp hin, step_cyc hp rfl, ?line, State.afterWord_enc _ _, ?out, ?none, ?some⟩
  case line => rw [afterInput_enc, afterInput_eq]
  case out => rw [encNow_of_inputs hin, State.encOut, afterInput_enc, State.afterInput_params]
  case none => intro h; rw [afterInput_enc, h, EncPort.next_none]
  case some => intro v h; rw [afterInput_enc, h, EncPort.next_some]

/-- The cycle of ENCODE alone: the line takes the value, and the block only counts the blanking down (R54, R72). -/
theorem clock_encodeWrites (s : State) (v : EncValue) :
    s.clock (encodeWrites v) =
      { s with
        steps := s.steps + 1, enc := ⟨v, s.steps⟩
        block := { s.block with blankCnt := s.block.blankCnt - 1 } } := rfl

/-- ENC's outputs after that cycle are those of the value presented in it. -/
theorem encOut_clock_encodeWrites (s : State) (v : EncValue) :
    (s.clock (encodeWrites v)).encOut = encodeDigits s.params s.steps v.toNat := rfl

/-- Settles O19: ENCODE writes the line alone, and its value is within ENC's contract or draws free patterns. -/
theorem encodePresentsItsValueAndWritesNoState : Obligations.EncodePresentsItsValueAndWritesNoState := by
  intro s v
  refine ⟨s.clock (encodeWrites v), rfl, clock_encodeWrites s v, fun hv => ?legal, fun hv => ?free⟩
  case legal => rw [encOut_clock_encodeWrites, encodeDigits_of_le hv, digitsOf]
  case free => rw [encOut_clock_encodeWrites, encodeDigits_of_gt hv]

end Sys2Proof.Machine
end

section
/-! PROOFS. 41_accumulator_averager.md: the arithmetic of the Display Value (R61), SAMPLE and PUBLISH alone in their
cycle (R59, R60), the step against the pseudocode of R82, and what a window of samples leaves in the accumulator, in
shadow and on the display (R59 to R63). -/

namespace Sys2Proof.Machine

/-! ### The Display Value -/

/-- The two truncating shifts of R61 are one. -/
theorem displayValue_eq_shift (p : Params) (sum1 : Nat) :
    displayValue p sum1 = sum1 >>> (p.windowLog2 + p.scaleShift) :=
  (Nat.shiftRight_add sum1 p.windowLog2 p.scaleShift).symm

/-- The Display Value of one window's sum fits VAL_W, taken as 0 above SCALE_SHIFT 10 (R61). -/
theorem displayValue_lt_two_pow_valW {p : Params} (h : p.legal = true) {sum1 : Nat} (hs : sum1 ≤ p.window * 1023) :
    displayValue p sum1 < 2 ^ p.valW := by
  refine (displayValue_le_of_sum_le (legal_facts h).1 hs).trans_lt ?_
  rw [Nat.div_lt_iff_lt_mul (by positivity), ← pow_add]
  calc 1023 < 2 ^ 10 := by decide
    _ ≤ 2 ^ (p.valW + p.scaleShift) := Nat.pow_le_pow_right (by decide) (by unfold Params.valW sampleW; omega)

/-- Settles O32: the shifts are divisions, and the mean of a window is at most the largest sample. -/
theorem displayValueIsTheScaledMean : Obligations.DisplayValueIsTheScaledMean := by
  intro p sum1 hp
  refine ⟨displayValue_eq_shift p sum1, displayValue_eq_div (legal_facts hp).1 sum1, fun hs => ?_⟩
  exact ⟨displayValue_lt_two_pow_valW hp hs, (displayValue_le_511 hp hs).trans (by decide)⟩

/-! ### SAMPLE and PUBLISH alone -/

/-- The cycle of the SAMPLE that completes a window (R59, R60). -/
theorem clock_sampleWrites_of_ends (s : State) (v : RawSample) (h : s.block.accCnt + 1 = s.params.window) :
    s.clock (sampleWrites s.params s.steps s.block v) = { s with
      steps := s.steps + 1
      block := { s.block with
        shadow   := encodeDigits s.params s.steps (displayValue s.params (sumWith s.block v))
        pending  := true, accSum := 0, accCnt := 0
        blankCnt := s.block.blankCnt - 1 } } := by
  rw [sampleWrites_of_ends ((windowEnds_iff ..).2 h)]; rfl

/-- The cycle of any other SAMPLE (R59). -/
theorem clock_sampleWrites_of_not_ends (s : State) (v : RawSample) (h : s.block.accCnt + 1 ≠ s.params.window) :
    s.clock (sampleWrites s.params s.steps s.block v) = { s with
      steps := s.steps + 1
      block := { s.block with
        accSum   := sumWith s.block v, accCnt := s.block.accCnt + 1
        blankCnt := s.block.blankCnt - 1 } } := by
  rw [sampleWrites_of_not_ends (by simpa [windowEnds] using h)]; rfl

theorem exec_sample (v : RawSample) (s : State) :
    exec (.sample v) s = .next (s.clock (sampleWrites s.params s.steps s.block v)) := rfl

/-- PUBLISH alone is the SAMPLE it is part of (log 7). -/
theorem exec_publish (v : RawSample) (s : State) :
    exec (.publish v) s = .next (s.clock (sampleWrites s.params s.steps s.block v)) := rfl

/-- Settles O16: SAMPLE's cycle, by whether it completes the window. -/
theorem sampleAddsCountsAndPublishes : Obligations.SampleAddsCountsAndPublishes := by
  intro s v
  rw [exec_sample]
  split_ifs with h
  · rw [clock_sampleWrites_of_ends s v h]; rfl
  · rw [clock_sampleWrites_of_not_ends s v h]; rfl

/-- Settles O17: the same cycle, in the state that selects PUBLISH and elsewhere. -/
theorem publishWritesShadowAndPending : Obligations.PublishWritesShadowAndPending := by
  intro s v
  rw [exec_publish]
  exact ⟨fun h => congrArg _ (clock_sampleWrites_of_ends s v h),
    fun h => congrArg _ (clock_sampleWrites_of_not_ends s v h)⟩

/-! ### The pseudocode of R82 -/

/-- Where the cursor names a cell, the pattern TICK latches is the one R67 writes. -/
theorem drivePattern_eq_pseudo (draw : Nat) (a : Digits) (dp : PosCode) {c : PosCode} (hc : c ≠ posNone) :
    drivePattern draw a dp c = (cellAt a c).getD blankPattern ||| (if dp = c then 0x80#8 else 0x00#8) := by
  obtain ⟨q, hq⟩ := cellAt_of_ne_none a hc
  rw [drivePattern_of_cell hq, hq, Option.getD_some]

/-- R67's TICK writes what the model's does. -/
theorem pseudoTick_eq (p : Params) (draw : Nat) (s s' : Block) (hc : s.cursor ≠ posNone) :
    pseudoTick p s s' =
      ({ s' with
          active   := if swapFires s then s.shadow else s'.active
          drvIdx   := s.cursor
          drvPat   := drivePattern draw (shownDigits s) s.dpPos s.cursor
          blankCnt := p.blankCycles
          cursor   := nextCursor draw s.cursor
          sub      := nextSub p s.sub },
        raisesDue p s.sub, swapFires s) := by
  rw [drivePattern_eq_pseudo draw _ _ hc]
  have hswap : (s.cursor == 0#2 && s.pending) = swapFires s := rfl
  simp only [pseudoTick, hswap, nextCursor, hc, if_false]
  by_cases hraise : s.sub + 1 = p.sampleDiv <;> cases hfires : swapFires s <;>
    simp [hraise, hfires, nextSub, raisesDue, shownDigits]

/-- R59's SAMPLE, with R60's PUBLISH, writes what the model's does. -/
theorem pseudoSample_eq (p : Params) (draw : Nat) (s s' : Block) (v : RawSample) :
    pseudoSample p draw s s' v =
      ({ s' with
          shadow := if windowEnds p s then encodeDigits p draw (displayValue p (sumWith s v)) else s'.shadow
          accSum := if windowEnds p s then 0 else sumWith s v
          accCnt := if windowEnds p s then 0 else s.accCnt + 1 },
        windowEnds p s) := by
  by_cases hends : s.accCnt + 1 = p.window <;>
    simp [pseudoSample, windowEnds, hends, sumWith, sampleOperand, displayValue, meanOf]

/-- The bits and fields R82 reads are those of R39. -/
theorem wordParts (w : CycleWord) :
    w.getLsbD 0 = evRst w ∧ w.getLsbD 1 = evTick w ∧ w.getLsbD 2 = evSample w ∧ w.getLsbD 3 = evAck w ∧
      w.getLsbD 4 = evDpWe w ∧ w.extractLsb' 5 10 = fieldSample w ∧ w.extractLsb' 15 2 = fieldDp w :=
  ⟨rfl, rfl, rfl, rfl, rfl, rfl, rfl⟩

/-- Step(s, W) of R82 is the block's clock cycle on the word. -/
theorem afterWord_block_eq_pseudoStep (s : State) (w : CycleWord) (hc : s.block.cursor ≠ posNone) :
    (s.afterWord w).block = pseudoStep s.params s.steps s.block w := by
  obtain ⟨hrst, htick, hsample, hack, hdp, hfield, hpos⟩ := wordParts w
  cases hr : evRst w
  case true => rw [afterWord_of_reset s hr, pseudoStep, hrst, if_pos hr]
  case false =>
    have hcount : (if s.block.blankCnt > 0 then s.block.blankCnt - 1 else 0) = s.block.blankCnt - 1 := by
      split_ifs <;> omega
    rw [afterWord_of_not_reset s hr, pseudoStep, hrst, hr]
    simp only [htick, hsample, hack, hdp, hfield, hpos, hcount, pseudoTick_eq s.params s.steps _ _ hc, pseudoSample_eq]
    cases evTick w <;> cases evSample w <;> cases evDpWe w <;> rfl

/-- Settles O7: a step is the cycle of its input, which is R82's on the block and moves ENC's line on. -/
theorem stepFollowsThePseudocode : Obligations.StepFollowsThePseudocode := by
  intro s x rest hp hc hin
  have hblock := afterWord_block_eq_pseudoStep { s with inputs := rest } x.word hc
  simp only [step_input hp hin, afterInput_eq, hblock]
  cases x.enc <;> rfl

/-! ### A window of samples -/

/-- A word adds its sample to the sum, or nothing. -/
theorem sampleTotal_singleton (w : CycleWord) :
    sampleTotal [w] = if evSample w then sampleOperand (fieldSample w) else 0 := by
  cases hs : evSample w <;> simp [sampleTotal, samplesOf, hs, sampleOperand]

theorem length_samplesOf_singleton (w : CycleWord) : (samplesOf [w]).length = if evSample w then 1 else 0 := by
  cases hs : evSample w <;> simp [samplesOf, hs]

theorem sampleTotal_append (xs ys : List CycleWord) : sampleTotal (xs ++ ys) = sampleTotal xs + sampleTotal ys := by
  simp [sampleTotal, samplesOf]

theorem length_samplesOf_append (xs ys : List CycleWord) :
    (samplesOf (xs ++ ys)).length = (samplesOf xs).length + (samplesOf ys).length := by
  simp [samplesOf]

/-- The sum of the samples is within the bound of their number (R62). -/
theorem sampleTotal_le (ws : List CycleWord) : sampleTotal ws ≤ (samplesOf ws).length * 1023 := by
  induction ws with
  | nil => exact Nat.le_refl 0
  | cons w ws ih =>
    have := sampleOperand_le (fieldSample w)
    rw [← List.singleton_append, sampleTotal_append, length_samplesOf_append, sampleTotal_singleton,
      length_samplesOf_singleton]
    split_ifs <;> omega

/-- From `b` to `c` nothing was published, though a frame swap may have happened, and the window goes on: acc_sum grew
by `sum` and acc_cnt by `count` (R63). -/
structure WindowOpen (b c : Block) (sum count : Nat) : Prop where
  shadow  : c.shadow = b.shadow
  pending : c.pending = true → b.pending = true
  active  : c.active = b.active ∨ (b.pending = true ∧ c.active = b.shadow)
  accSum  : c.accSum = b.accSum + sum
  accCnt  : c.accCnt = b.accCnt + count

theorem WindowOpen.refl (b : Block) : WindowOpen b b 0 0 := ⟨rfl, id, .inl rfl, rfl, rfl⟩

theorem WindowOpen.trans {a b c : Block} {m n i j : Nat} (hab : WindowOpen a b m i) (hbc : WindowOpen b c n j) :
    WindowOpen a c (m + n) (i + j) where
  shadow := hbc.shadow.trans hab.shadow
  pending := hab.pending ∘ hbc.pending
  active := by
    obtain hkept | ⟨hpend, hcopied⟩ := hbc.active
    · rw [hkept]; exact hab.active
    · exact .inr ⟨hab.pending hpend, hcopied.trans hab.shadow⟩
  accSum := by rw [hbc.accSum, hab.accSum, Nat.add_assoc]
  accCnt := by rw [hbc.accCnt, hab.accCnt, Nat.add_assoc]

/-- One cycle without RESET that does not complete the window. -/
theorem windowOpen_afterWord {s : State} {w : CycleWord} (hr : evRst w = false)
    (hopen : evSample w = true → windowEnds s.params s.block = false) :
    WindowOpen s.block (s.afterWord w).block (sampleTotal [w]) (samplesOf [w]).length := by
  have hnot : (evSample w && windowEnds s.params s.block) = false := by simpa using hopen
  constructor <;> simp only [afterWord_of_not_reset s hr, hnot]
  case shadow => rfl
  case pending => simp [nextPending_iff]
  case active =>
    cases evTick w
    case false => exact .inl rfl
    case true =>
      cases hswap : swapFires s.block
      case false => simp [shownDigits, hswap]
      case true => simp [shownDigits, hswap, ((swapFires_iff s.block).1 hswap).2]
  case accSum =>
    rw [sampleTotal_singleton]
    cases hs : evSample w
    case false => rfl
    case true => simp [hopen hs, sumWith]
  case accCnt =>
    rw [length_samplesOf_singleton]
    cases hs : evSample w
    case false => rfl
    case true => simp [hopen hs]

/-- A run whose samples do not complete the window. -/
theorem windowOpen_foldl_afterWord (ws : List CycleWord) {s : State} (hr : noReset ws)
    (hopen : s.block.accCnt + (samplesOf ws).length < s.params.window) :
    WindowOpen s.block (ws.foldl State.afterWord s).block (sampleTotal ws) (samplesOf ws).length := by
  induction ws generalizing s with
  | nil => exact .refl s.block
  | cons w ws ih =>
    obtain ⟨hrw, hrws⟩ := List.forall_mem_cons.1 hr
    rw [← List.singleton_append, sampleTotal_append, length_samplesOf_append]
    have hfirst : WindowOpen s.block (s.afterWord w).block (sampleTotal [w]) (samplesOf [w]).length := by
      refine windowOpen_afterWord hrw fun hs => ?_
      rw [length_samplesOf_cons, if_pos hs] at hopen
      rw [← Bool.not_eq_true, windowEnds_iff]
      omega
    exact hfirst.trans (ih hrws (by rwa [hfirst.accCnt, Nat.add_assoc, ← length_samplesOf_append]))

/-- Settles O40: the run is the fold of its cycles, none of which completes the window. -/
theorem anUnfinishedWindowPublishesNothing : Obligations.AnUnfinishedWindowPublishesNothing := by
  intro s ws hp hr hopen
  obtain ⟨hshadow, hpending, hactive, hsum, hcount⟩ := windowOpen_foldl_afterWord ws hr hopen
  exact ⟨_, runWords_eq ws s hp, hshadow, hpending, hactive, hsum, hcount⟩

/-- What the samples of one window leave: their mean, scaled and encoded, in shadow, and an empty accumulator. -/
structure Published (p : Params) (sum1 : Nat) (b : Block) : Prop where
  shadow  : b.shadow = digitsOf p (displayValue p sum1)
  pending : b.pending = true
  accSum  : b.accSum = 0
  accCnt  : b.accCnt = 0

/-- The cycle whose SAMPLE completes the window, with a sum within the window's bound. -/
theorem published_afterWord {s : State} {w : CycleWord} (hp : s.params.legal = true) (hr : evRst w = false)
    (hs : evSample w = true) (hend : s.block.accCnt + 1 = s.params.window)
    (hsum : sumWith s.block (fieldSample w) ≤ s.params.window * 1023) :
    Published s.params (sumWith s.block (fieldSample w)) (s.afterWord w).block := by
  have hle : displayValue s.params (sumWith s.block (fieldSample w)) ≤ 999 :=
    (displayValue_le_511 hp hsum).trans (by decide)
  have hends := (windowEnds_iff s.params s.block).2 hend
  constructor <;> simp [afterWord_of_not_reset s hr, hs, hends, encodeDigits_of_le hle, nextPending]

/-- A run with the samples of exactly one window, the last of them in its last cycle. -/
theorem published_foldl_afterWord {s : State} {ws : List CycleWord} {w : CycleWord} (hp : s.params.legal = true)
    (hcnt : s.block.accCnt = 0) (hsum : s.block.accSum = 0) (hr : noReset (ws ++ [w])) (hs : evSample w = true)
    (hlen : (samplesOf (ws ++ [w])).length = s.params.window) :
    Published s.params (sampleTotal (ws ++ [w])) ((ws ++ [w]).foldl State.afterWord s).block := by
  obtain ⟨hrws, hrw⟩ := List.forall_mem_append.1 hr
  have hbound := sampleTotal_le (ws ++ [w])
  rw [hlen] at hbound
  have hlast : (samplesOf ws).length + 1 = s.params.window := by
    rw [← hlen, length_samplesOf_append, length_samplesOf_singleton, if_pos hs]
  have hbefore := windowOpen_foldl_afterWord ws (s := s) hrws (by omega)
  have hparams := foldl_afterWord_params ws s
  rw [List.foldl_append, List.foldl_cons, List.foldl_nil]
  generalize ws.foldl State.afterWord s = t at hbefore hparams ⊢
  have htotal : sampleTotal (ws ++ [w]) = sumWith t.block (fieldSample w) := by
    rw [sumWith, hbefore.accSum, hsum, Nat.zero_add, sampleTotal_append, sampleTotal_singleton, if_pos hs]
  rw [htotal] at hbound ⊢
  rw [← hparams] at hp hbound hlast ⊢
  have hend : t.block.accCnt + 1 = t.params.window := by rw [hbefore.accCnt, hcnt, Nat.zero_add, hlast]
  exact published_afterWord hp (hrw w (List.mem_singleton_self w)) hs hend hbound

/-- Settles O39: the run is the fold of its cycles, and only its last one completes the window. -/
theorem aFullWindowPublishesItsMean : Obligations.AFullWindowPublishesItsMean := by
  intro s ws w hp hcnt hsum hr hs hlen
  obtain ⟨hshadow, hpending, hsum', hcnt'⟩ := published_foldl_afterWord hp hcnt hsum hr hs hlen
  exact ⟨_, runWords_eq _ s hp, hshadow, hpending, hsum', hcnt'⟩

/-! ### A window, then a frame -/

theorem sampleTotal_replicate (n : Nat) (v : RawSample) :
    sampleTotal (List.replicate n (encodeWord (.sample v))) = n * v.toNat := by
  simp [sampleTotal, samplesOf, Instr.event?]

/-- The mean of equal samples is the sample (R61). -/
theorem displayValue_of_equal_samples {p : Params} (h : p.legal = true) (v : Nat) :
    displayValue p (p.window * v) = v >>> p.scaleShift := by
  have hmean : meanOf p (p.window * v) = v := by
    rw [meanOf, Nat.shiftRight_eq_div_pow, ← (legal_facts h).1, Nat.mul_div_cancel_left v (window_pos h)]
  rw [displayValue, hmean]

/-- A word repeated that selects neither RESET, nor TICK, nor DP_WRITE. -/
theorem replicate_encodeWord_quiet (n : Nat) {i : Instr} (hreset : i ≠ .reset) (htick : i.event? ≠ some 1)
    (hdp : i.event? ≠ some 4) :
    noReset (List.replicate n (encodeWord i)) ∧ noTick (List.replicate n (encodeWord i)) ∧
      ∀ w ∈ List.replicate n (encodeWord i), evDpWe w = false := by
  refine ⟨List.forall_mem_replicate.2 (.inr ?rst), List.forall_mem_replicate.2 (.inr ?tick),
    List.forall_mem_replicate.2 (.inr ?dpWe)⟩
  case rst => simpa using hreset
  case tick => simpa using htick
  case dpWe => simpa using hdp

/-- Only DP_WRITE and RESET write dp_pos (R18). -/
theorem foldl_afterWord_dpPos (ws : List CycleWord) (s : State) (hr : noReset ws) (hd : ∀ w ∈ ws, evDpWe w = false) :
    (ws.foldl State.afterWord s).block.dpPos = s.block.dpPos := by
  induction ws generalizing s with
  | nil => rfl
  | cons w ws ih =>
    obtain ⟨hrw, hrws⟩ := List.forall_mem_cons.1 hr
    obtain ⟨hdw, hdws⟩ := List.forall_mem_cons.1 hd
    rw [List.foldl_cons, ih _ hrws hdws, afterWord_of_not_reset s hrw]
    simp [hdw]

/-- After a TICK and its blanking, and until the next TICK, the lines show the cell the TICK latched (R72, R73). -/
theorem lines_of_tick_then_noTick {s : State} {w : CycleWord} {ws : List CycleWord} {q : Pattern} (hr : evRst w = false)
    (ht : evTick w = true) (hrws : noReset ws) (htws : noTick ws) (hblank : s.params.blankCycles ≤ ws.length)
    (hq : cellAt (shownDigits s.block) s.block.cursor = some q) :
    let t := (w :: ws).foldl State.afterWord s
    selL t.block = onehot3 s.block.cursor ∧
      segL t.block = q ||| (if s.block.dpPos = s.block.cursor then dpMask else 0x00#8) := by
  obtain ⟨hidx, hpat, -, -, -, hcnt⟩ := foldl_afterWord_of_noTick ws (s.afterWord w) htws hrws
  simp only [afterWord_of_not_reset s hr, ht, if_true, drivePattern_of_cell hq] at hidx hpat hcnt
  intro t
  have hne : s.block.cursor ≠ posNone := fun hnone => by simp [hnone] at hq
  have hvisible : visible t.block = true :=
    (visible_iff _).2 ⟨hidx.trans_ne hne, hcnt.trans (Nat.sub_eq_zero_of_le hblank)⟩
  exact ⟨by rw [selL, if_pos hvisible]; exact congrArg onehot3 hidx, by rw [segL, if_pos hvisible]; exact hpat⟩

/-- Cell `c` of the buffer `g`, with the decimal point at `dp`, is on the lines, and the next TICK is for the next
position (R67, R70, R73). -/
structure ShowsCell (p : Params) (g : Digits) (dp c : PosCode) (s : State) : Prop where
  params : s.params = p
  active : s.block.active = g
  dpPos  : s.block.dpPos = dp
  cursor : s.block.cursor = if c = 2#2 then 0#2 else c + 1#2
  sel    : selL s.block = onehot3 c
  seg    : ∀ q, cellAt g c = some q → segL s.block = q ||| (if dp = c then dpMask else 0x00#8)

/-- SHOW shows the cell its TICK finds the cursor at (R49). -/
theorem showsCell_foldl_showWords {s : State} (hc : s.block.cursor ≠ posNone) :
    ShowsCell s.params (shownDigits s.block) s.block.dpPos s.block.cursor
      ((showWords s.params).foldl State.afterWord s) := by
  have hr : evRst (encodeWord .tick) = false := by simp
  have ht : evTick (encodeWord .tick) = true := by simp [Instr.event?]
  obtain ⟨hrws, htws, hdws⟩ := replicate_encodeWord_quiet s.params.blankCycles (i := .nop) nofun nofun nofun
  obtain ⟨-, -, hactive, hcursor, -⟩ := foldl_afterWord_of_noTick _ (s.afterWord (encodeWord .tick)) htws hrws
  have hdp := foldl_afterWord_dpPos _ (s.afterWord (encodeWord .tick)) hrws hdws
  obtain ⟨q, hq⟩ := cellAt_of_ne_none (shownDigits s.block) hc
  obtain ⟨hsel, hseg⟩ := lines_of_tick_then_noTick hr ht hrws htws List.length_replicate.ge hq
  simp only [afterWord_of_not_reset s hr] at hactive hcursor hdp
  refine ⟨foldl_afterWord_params _ s, hactive, hdp, ?cursor, hsel, ?seg⟩
  case cursor => exact hcursor.trans (if_neg hc)
  case seg =>
    intro q' hq'
    cases hq.symm.trans hq'
    exact hseg

/-- The next SHOW shows the next cell of the same buffer: no swap happens before cursor 0 (R68). -/
theorem ShowsCell.foldl_showWords {p : Params} {g : Digits} {dp c : PosCode} {s : State} (h : ShowsCell p g dp c s)
    (hc : c = 0#2 ∨ c = 1#2) : ShowsCell p g dp (c + 1#2) ((showWords p).foldl State.afterWord s) := by
  have hcursor : s.block.cursor = c + 1#2 := by rw [h.cursor]; rcases hc with rfl | rfl <;> rfl
  have hzero : s.block.cursor ≠ 0#2 := by rw [hcursor]; rcases hc with rfl | rfl <;> decide
  have hnone : s.block.cursor ≠ posNone := by rw [hcursor]; rcases hc with rfl | rfl <;> decide
  have hnext := showsCell_foldl_showWords hnone
  rwa [shownDigits_of_cursor_ne_zero hzero, h.active, hcursor, h.dpPos, h.params] at hnext

/-- The first SHOW shows the generation that is pending at cursor 0 (R68). -/
theorem showsCell_of_pending {s : State} (hc : s.block.cursor = 0#2) (hpend : s.block.pending = true) :
    ShowsCell s.params s.block.shadow s.block.dpPos 0#2 ((showWords s.params).foldl State.afterWord s) := by
  have hfirst := showsCell_foldl_showWords (s := s) (by simp [hc])
  rwa [shownDigits_of_cursor_zero hc, if_pos hpend, hc] at hfirst

/-- From reset a window of equal samples publishes the sample scaled, and touches neither the cursor nor dp_pos. -/
theorem foldl_window_of_reset {p : Params} (hp : p.legal = true) (v : RawSample) :
    let t := (expandLine p (.window v)).foldl State.afterWord (State.resetWith p)
    t.block.shadow = digitsOf p (v.toNat >>> p.scaleShift) ∧ t.block.pending = true ∧
      t.block.cursor = 0#2 ∧ t.block.dpPos = p.dpReset := by
  intro t
  obtain ⟨hr, ht, hd⟩ := replicate_encodeWord_quiet p.window (i := .sample v) nofun
    (by simp [Instr.event?]) (by simp [Instr.event?])
  have hlast : expandLine p (.window v) =
      List.replicate (p.window - 1) (encodeWord (.sample v)) ++ [encodeWord (.sample v)] := by
    rw [← List.replicate_succ', Nat.sub_add_cancel (window_pos hp)]; rfl
  have hpub : Published p (sampleTotal (expandLine p (.window v))) t.block := by
    have hlen : (samplesOf (expandLine p (.window v))).length = p.window := by
      simp [expandLine, samplesOf, Instr.event?]
    have hr' : noReset (expandLine p (.window v)) := hr
    rw [hlast] at hlen hr'
    have hlastWord := published_foldl_afterWord (s := State.resetWith p) hp rfl rfl hr' (by simp [Instr.event?]) hlen
    rwa [← hlast] at hlastWord
  obtain ⟨-, -, -, hcursor, -⟩ := foldl_afterWord_of_noTick _ (State.resetWith p) ht hr
  refine ⟨?shadow, hpub.pending, hcursor, foldl_afterWord_dpPos _ _ hr hd⟩
  case shadow =>
    rw [hpub.shadow, expandLine, sampleTotal_replicate, displayValue_of_equal_samples hp]

/-- Settles O48: the window publishes, and each SHOW shows the next cell of what it published. -/
theorem aWindowThenAFrameShowsTheValue : Obligations.AWindowThenAFrameShowsTheValue := by
  intro p v hp g dp window digit
  obtain ⟨hshadow, hpend, hcursor, hdp⟩ := foldl_window_of_reset hp v
  have hparams := foldl_afterWord_params window (State.resetWith p)
  have hunits := showsCell_of_pending hcursor hpend
  rw [hshadow, hdp, hparams] at hunits
  have htens := hunits.foldl_showWords (.inl rfl)
  have hhundreds := htens.foldl_showWords (.inr rfl)
  refine ⟨⟨_, runWords_eq _ _ hp, ?units⟩, ⟨_, runWords_eq _ _ hp, ?tens⟩, ⟨_, runWords_eq _ _ hp, ?hundreds⟩⟩
  case units =>
    rw [List.foldl_append]
    exact ⟨hunits.active, hunits.sel, hunits.seg _ rfl⟩
  case tens =>
    rw [List.foldl_append, List.foldl_append]
    exact ⟨htens.active, htens.sel, htens.seg _ rfl⟩
  case hundreds =>
    rw [expandLine, List.foldl_append, List.foldl_append, List.foldl_append]
    exact ⟨hhundreds.active, hhundreds.sel, hhundreds.seg _ rfl⟩

end Sys2Proof.Machine
end

section
/-! PROOFS. 42_display_multiplexer.md: TICK, DUE_ACK, DP_WRITE and NOP alone and in any cycle (R67 to R72, R75 to R77),
the count of the ticks in cursor and sub (R70, R71, R78), and the blanking after a tick (R72, R73, R100). -/

namespace Sys2Proof.Machine

/-! ### One operation alone -/

/-- The cycle of TICK alone, from any cursor (R67). -/
theorem cycle_tick (s : State) :
    s.cycle [.tick] = { s with
      steps := s.steps + 1
      block := { s.block with
        active   := shownDigits s.block
        pending  := if swapFires s.block then false else s.block.pending
        drvIdx   := s.block.cursor
        drvPat   := drivePattern s.steps (shownDigits s.block) s.block.dpPos s.block.cursor
        blankCnt := s.params.blankCycles
        cursor   := nextCursor s.steps s.block.cursor
        sub      := nextSub s.params s.block.sub
        due      := if raisesDue s.params s.block.sub then true else s.block.due } } := by
  have hactive : (tickWrites s.params s.steps s.block).active.getD s.block.active = shownDigits s.block := by
    unfold tickWrites shownDigits; split_ifs <;> rfl
  have hreset : (tickWrites s.params s.steps s.block).reset = false := rfl
  simp only [State.cycle, cycleWrites, writesOf, Writes.merge_empty, State.clock, Block.commit_of_not_reset _ _ hreset,
    hactive]
  rfl

/-- The cycle of DUE_ACK alone (R75, R72). -/
theorem cycle_dueAck (s : State) :
    s.cycle [.dueAck] = { s with
      steps := s.steps + 1, block := { s.block with due := false, blankCnt := s.block.blankCnt - 1 } } := rfl

/-- The cycle of DP_WRITE alone (R76, R72). -/
theorem cycle_dpWrite (s : State) (d : PosCode) :
    s.cycle [.dpWrite d] = { s with
      steps := s.steps + 1, block := { s.block with dpPos := d, blankCnt := s.block.blankCnt - 1 } } := rfl

/-- The cycle of NOP alone (R77, R72). -/
theorem cycle_nop (s : State) :
    s.cycle [.nop] = { s with
      steps := s.steps + 1, block := { s.block with blankCnt := s.block.blankCnt - 1 } } := rfl

/-- Settles O18: each of the three operations is its cycle. -/
theorem ackDpWriteAndNopWriteTheirFieldOnly : Obligations.AckDpWriteAndNopWriteTheirFieldOnly := by
  intro s d
  rw [exec_eq_cycle, exec_eq_cycle, exec_eq_cycle, cycle_dueAck, cycle_dpWrite, cycle_nop]
  exact ⟨rfl, rfl, rfl⟩

/-- A choice by whether the TICK raises due, by R71's condition. -/
theorem ite_raisesDue {α : Type} (p : Params) (sub : Nat) (x y : α) :
    (if raisesDue p sub then x else y) = if sub + 1 = p.sampleDiv then x else y :=
  if_congr (raisesDue_iff p sub) rfl rfl

/-- A choice by whether the TICK swaps, by R68's two conditions. -/
theorem ite_swapFires {α : Type} (b : Block) (x y : α) :
    (if swapFires b then x else y) = if b.cursor = 0#2 ∧ b.pending = true then x else y :=
  if_congr (swapFires_iff b) rfl rfl

theorem cellAt_eq_of_ne_none (a : Digits) {c : PosCode} (h : c ≠ posNone) :
    cellAt a c = some (if c = 0#2 then a.units else if c = 1#2 then a.tens else a.hundreds) := by
  rcases posCode_cases h with rfl | rfl | rfl <;> rfl

/-- Settles O14: the cursor names a cell, and swap and raise are the conditions of R68 and R71. -/
theorem tickDrivesAdvancesAndCounts : Obligations.TickDrivesAdvancesAndCounts := by
  intro s hc b swap a
  have hshown : shownDigits s.block = a := ite_swapFires ..
  rw [exec_eq_cycle, cycle_tick, hshown, drivePattern_of_cell (cellAt_eq_of_ne_none a hc), nextCursor, if_neg hc,
    nextSub, ite_raisesDue, ite_raisesDue, ite_swapFires]

/-- Settles O15: code 3 is not 0, so nothing is swapped, and it names neither a cell nor a next position. -/
theorem tickFromCursorCodeThreeRunsWithFreeValues : Obligations.TickFromCursorCodeThreeRunsWithFreeValues := by
  intro s hc
  have hzero : s.block.cursor ≠ 0#2 := by rw [hc]; decide
  have hswap : swapFires s.block = false := by simp [swapFires, hzero]
  rw [exec_eq_cycle, cycle_tick, shownDigits_of_cursor_ne_zero hzero, hswap, hc, drivePattern_of_none, nextCursor,
    if_pos rfl, nextSub, ite_raisesDue, ite_raisesDue]
  rfl

/-! ### One cycle, whatever else it selects -/

/-- A word with an operation's event bit alone, and its operand, is that operation's cycle, whatever its other bits. -/
theorem afterWord_of_eventMask (s : State) {w : CycleWord} {i : Instr}
    (hfit : i.fitsWindow (windowEnds s.params s.block) = true) (henc : i.encValue? = none)
    (hmask : w &&& 0x0001F#17 = encodeWord i &&& 0x0001F#17)
    (hsample : i.event? = some 2 → fieldSample w = fieldSample (encodeWord i))
    (hdp : i.event? = some 4 → fieldDp w = fieldDp (encodeWord i)) : s.afterWord w = s.cycle [i] := by
  obtain ⟨-, -, hs, -, hd⟩ := evBits_of_mask w (encodeWord i) hmask
  have hops : eventOps (windowEnds s.params s.block) w = eventOps (windowEnds s.params s.block) (encodeWord i) :=
    eventOps_congr _ hmask (fun _ h => hsample (by simpa [hs] using h)) (fun _ h => hdp (by simpa [hd] using h))
  rw [State.afterWord, selectedOps, hops, ← selectedOps, selectedOps_encodeWord hfit henc]

theorem afterWord_of_dueAck_mask (s : State) {w : CycleWord} (h : w &&& 0x0001F#17 = 0x00008#17) :
    s.afterWord w = s.cycle [.dueAck] :=
  afterWord_of_eventMask s rfl rfl h nofun nofun

theorem afterWord_of_nop_mask (s : State) {w : CycleWord} (h : w &&& 0x0001F#17 = 0x00000#17) :
    s.afterWord w = s.cycle [.nop] :=
  afterWord_of_eventMask s rfl rfl h nofun nofun

theorem afterWord_of_dpWrite_mask (s : State) {w : CycleWord} (h : w &&& 0x0001F#17 = 0x00010#17) :
    s.afterWord w = s.cycle [.dpWrite (fieldDp w)] := by
  have hword : ∀ d : PosCode, encodeWord (.dpWrite d) &&& 0x0001F#17 = 0x00010#17 := by decide
  exact afterWord_of_eventMask s rfl rfl (h.trans (hword _).symm) (by simp [Instr.event?])
    fun _ => (fieldDp_encodeWord_dpWrite _).symm

/-- Settles O21: the flag after the cycle, where the acknowledge leaves a raise alone to set it. -/
theorem dueAckClearsUnlessRaised : Obligations.DueAckClearsUnlessRaised := by
  intro s w hp hmask
  obtain ⟨hr, hack⟩ := (and_rowMask_eq_iff w (k := 3) (by decide) (by decide)).1 hmask
  refine ⟨s.afterWord w, step_feed_cons hp w [], ?flag, fun halone => ?frame⟩
  case flag =>
    have hclear : evAck w = true := hack
    simp only [afterWord_of_not_reset s hr, nextDue_iff, hclear, Bool.and_eq_true, raisesDue_iff]
    simp [evTick]
  case frame => rw [afterWord_of_dueAck_mask s halone, cycle_dueAck]

/-- With dp_pos NONE a TICK latches the cell as it is (R69). -/
theorem drivePattern_of_dp_none {draw : Nat} {a : Digits} {c : PosCode} {q : Pattern} (h : cellAt a c = some q) :
    drivePattern draw a posNone c = q := by
  have hne : posNone ≠ c := fun hnone => by simp [← hnone] at h
  rw [drivePattern_of_cell h, if_neg hne, BitVec.or_zero]

/-- Settles O22: the fields after the cycle; a TICK of it reads the pre-state's dp_pos, a later one what was written. -/
theorem dpWriteSetsThePositionForLaterTicks : Obligations.DpWriteSetsThePositionForLaterTicks := by
  intro s w hp hmask
  obtain ⟨hr, hdp⟩ := (and_rowMask_eq_iff w (k := 4) (by decide) (by decide)).1 hmask
  have hwrite : (s.afterWord w).block.dpPos = fieldDp w := by
    rw [afterWord_of_not_reset s hr]; exact if_pos hdp
  refine ⟨s.afterWord w, step_feed_cons hp w [], hwrite, fun ht q hq => ?tick, fun ht => ?noTick,
    fun halone => ?frame, fun hnone q hq => ⟨_, exec_eq_cycle _ _, ?later⟩⟩
  case tick =>
    have htick : evTick w = true := ht
    simp only [afterWord_of_not_reset s hr, htick, if_true, drivePattern_of_cell hq]
  case noTick =>
    have htick : evTick w = false := ht
    simp [afterWord_of_not_reset s hr, htick]
  case frame =>
    rw [afterWord_of_dpWrite_mask s halone, cycle_dpWrite]; rfl
  case later =>
    have hpos : (s.afterWord w).block.dpPos = posNone := hwrite.trans hnone
    rw [cycle_tick, hpos]
    exact drivePattern_of_dp_none hq

/-- The mask that excludes RESET and TICK (R40). -/
theorem and_rstTickMask_eq_zero_iff (w : CycleWord) :
    w &&& 0x00003#17 = 0x00000#17 ↔ evRst w = false ∧ evTick w = false := by
  have hsplit : 0x00003#17 = 0x00001#17 ||| BitVec.twoPow 17 1 := by decide
  change _ ↔ evRst w = false ∧ w.getLsbD 1 = false
  rw [hsplit, BitVec.and_or_distrib_left, and_evRst, BitVec.and_twoPow]
  cases evRst w <;> cases w.getLsbD 1 <;> decide

/-- Counting down and staying at 0 is one truncated subtraction (R72). -/
theorem ite_pos_sub_one_eq (n : Nat) : (if n > 0 then n - 1 else 0) = n - 1 := by
  split_ifs <;> omega

/-- Settles O23: a word without events is NOP's cycle, and any cycle without TICK counts down at its clock edge. -/
theorem nopOnlyCountsBlankingDown : Obligations.NopOnlyCountsBlankingDown := by
  intro s w hp
  rw [ite_pos_sub_one_eq, step_feed_cons hp, State.feed_nil]
  refine ⟨fun hmask => ?nop, fun hmask => ⟨_, rfl, ?count⟩⟩
  case nop => rw [afterWord_of_nop_mask s hmask, cycle_nop]
  case count =>
    obtain ⟨hr, ht⟩ := (and_rstTickMask_eq_zero_iff w).1 hmask
    simp [afterWord_of_not_reset s hr, ht]

/-! ### Counting the ticks -/

/-- The TICK that raises due is the one whose index is a multiple of SAMPLE_DIV (R71). -/
theorem raisesDue_mod_iff (p : Params) (k : Nat) (hd : 1 ≤ p.sampleDiv) :
    raisesDue p (k % p.sampleDiv) = true ↔ (k + 1) % p.sampleDiv = 0 := by
  obtain ⟨n, hn⟩ := Nat.exists_eq_add_of_le' hd
  rw [raisesDue_iff, hn, Nat.succ_mod_succ_eq_zero_iff, Nat.add_right_cancel_iff]

theorem nextSub_mod (p : Params) (k : Nat) (hd : 1 ≤ p.sampleDiv) :
    nextSub p (k % p.sampleDiv) = (k + 1) % p.sampleDiv := by
  have hlt := Nat.mod_lt k hd
  rw [nextSub, ite_raisesDue, ← Nat.mod_add_mod]
  split_ifs with hraise
  · rw [hraise, Nat.mod_self]
  · exact (Nat.mod_eq_of_lt (by omega)).symm

/-- The block has performed `k` TICKs since its last RESET: cursor and sub count them, and the driver shows the position
of the last one (R21, R70, R71). -/
structure CountsTicks (p : Params) (k : Nat) (b : Block) : Prop where
  cursor : b.cursor.toNat = k % 3
  sub    : b.sub = k % p.sampleDiv
  idle   : k = 0 → b.drvIdx = posNone
  drvIdx : 1 ≤ k → b.drvIdx.toNat = (k - 1) % 3

theorem countsTicks_reset (p : Params) : CountsTicks p 0 (Block.reset p) :=
  ⟨rfl, (Nat.zero_mod _).symm, fun _ => rfl, fun h => absurd h (by decide)⟩

/-- A TICK is counted. -/
theorem CountsTicks.afterWord_of_tick {k : Nat} {s : State} (h : CountsTicks s.params k s.block)
    (hd : 1 ≤ s.params.sampleDiv) {w : CycleWord} (hr : evRst w = false) (ht : evTick w = true) :
    CountsTicks s.params (k + 1) (s.afterWord w).block := by
  have hlt : s.block.cursor.toNat < 3 := h.cursor ▸ Nat.mod_lt k (by decide)
  constructor <;> simp only [afterWord_of_not_reset s hr, ht, if_true]
  case cursor => rw [nextCursor_toNat s.steps hlt, h.cursor, Nat.mod_add_mod]
  case sub => rw [h.sub, nextSub_mod _ _ hd]
  case idle => exact nofun
  case drvIdx => exact fun _ => h.cursor

/-- A cycle without TICK and RESET is not. -/
theorem CountsTicks.afterWord_of_noTick {k : Nat} {s : State} (h : CountsTicks s.params k s.block)
    {w : CycleWord} (hr : evRst w = false) (ht : evTick w = false) :
    CountsTicks s.params k (s.afterWord w).block := by
  constructor <;> simp only [afterWord_of_not_reset s hr, ht, Bool.false_eq_true, if_false]
  exacts [h.cursor, h.sub, h.idle, h.drvIdx]

/-- From reset on, whatever is run, the ticks since the last RESET are counted. -/
theorem countsTicks_foldl_afterWord (ws : List CycleWord) {s : State} (hd : 1 ≤ s.params.sampleDiv)
    (h : CountsTicks s.params 0 s.block) :
    CountsTicks s.params (ticksSinceReset ws) (ws.foldl State.afterWord s).block := by
  induction ws using List.reverseRecOn with
  | nil => exact h
  | append_singleton ws w ih =>
    rw [ticksSinceReset_concat, List.foldl_append, List.foldl_cons, List.foldl_nil]
    have hparams := foldl_afterWord_params ws s
    generalize ws.foldl State.afterWord s = t at ih hparams
    rw [← hparams] at hd ih ⊢
    cases hr : evRst w
    case true => simpa [afterWord_of_reset t hr] using countsTicks_reset t.params
    case false =>
      cases ht : evTick w
      case true => simpa using ih.afterWord_of_tick hd hr ht
      case false => simpa using ih.afterWord_of_noTick hr ht

/-- A run that begins with RESET counts the ticks of the words after it. -/
theorem runWords_counts_ticks {s : State} (hp : s.params.legal = true) {w0 : CycleWord} (hr0 : evRst w0 = true)
    (ws : List CycleWord) :
    ∃ t, runWords (w0 :: ws) s = .next t ∧ t.params = s.params ∧
      CountsTicks s.params (ticksSinceReset ws) t.block := by
  refine ⟨_, runWords_eq (w0 :: ws) s hp, foldl_afterWord_params _ s, ?_⟩
  have hinit : CountsTicks s.params 0 (s.afterWord w0).block := by
    rw [afterWord_of_reset s hr0]; exact countsTicks_reset s.params
  exact countsTicks_foldl_afterWord ws (s := s.afterWord w0) (legal_facts hp).2.2.1 hinit

/-- Settles O36: the count of the ticks is in cursor and drv_idx. -/
theorem cursorCountsTicksModuloThree : Obligations.CursorCountsTicksModuloThree := by
  intro s w0 ws hp hr0
  obtain ⟨t, hrun, -, hcount⟩ := runWords_counts_ticks hp hr0 ws
  refine ⟨t, hrun, hcount.cursor, ⟨hcount.idle, fun hnone => ?_⟩, hcount.drvIdx⟩
  by_contra hticks
  have hidx := hcount.drvIdx (Nat.one_le_iff_ne_zero.2 hticks)
  exact posCode_ne_none (hidx ▸ Nat.mod_lt _ (by decide)) hnone

/-- Settles O37: the count of the ticks is in sub, on which the next TICK's raise depends. -/
theorem dueIsRaisedEverySampleDivTicks : Obligations.DueIsRaisedEverySampleDivTicks := by
  intro s w0 ws hp hr0
  obtain ⟨t, hrun, hparams, hcount⟩ := runWords_counts_ticks hp hr0 ws
  refine ⟨t, hrun, hcount.sub, fun w hr => ⟨t.afterWord w, step_feed_cons (hparams ▸ hp) w [], ?_⟩⟩
  simp only [afterWord_of_not_reset t hr, nextDue_iff, Bool.and_eq_true, hparams, hcount.sub,
    raisesDue_mod_iff s.params _ (legal_facts hp).2.2.1, and_comm (a := evAck w = false)]

/-! ### The blanking after a tick -/

/-- Settles O41: after the tick the blanking counts down, and what was latched stays. -/
theorem aTickBlanksThenShowsItsDigit : Obligations.ATickBlanksThenShowsItsDigit := by
  intro s w ws q hp hr ht htws hrws hq
  refine ⟨_, runWords_eq (w :: ws) s hp, fun hlen => ?dark, fun hlen =>
    lines_of_tick_then_noTick hr ht hrws htws hlen hq⟩
  case dark =>
    obtain ⟨-, -, -, -, -, hcnt⟩ := foldl_afterWord_of_noTick ws (s.afterWord w) htws hrws
    simp only [afterWord_of_not_reset s hr, ht, if_true] at hcnt
    apply dark_of_not_visible
    rw [← Bool.not_eq_true, visible_iff, List.foldl_cons, hcnt]
    omega

end Sys2Proof.Machine
end

section
/-! PROOFS. 43_cycle_step.md: the operations of a cycle write fields of their own, so the order in which they are listed
does not matter (R80 to R82), and each step is one observed cycle of the clock (R79, R83). -/

namespace Sys2Proof.Machine

/-! ### The writers of a field -/

/-- TICK alone asks for the multiplexer's fields (R67). -/
theorem writesOf_of_not_tick (p : Params) (k : Nat) (b : Block) {i : Instr} (h : i.event? ≠ some 1) :
    (writesOf p k b i).cursor = none ∧ (writesOf p k b i).sub = none ∧ (writesOf p k b i).active = none ∧
      (writesOf p k b i).drvIdx = none ∧ (writesOf p k b i).drvPat = none ∧ (writesOf p k b i).blankCnt = none := by
  have hsample (v : RawSample) : (sampleWrites p k b v).cursor = none ∧ (sampleWrites p k b v).sub = none ∧
      (sampleWrites p k b v).active = none ∧ (sampleWrites p k b v).drvIdx = none ∧
      (sampleWrites p k b v).drvPat = none ∧ (sampleWrites p k b v).blankCnt = none := by
    unfold sampleWrites; split <;> exact ⟨rfl, rfl, rfl, rfl, rfl, rfl⟩
  cases i with
  | tick => exact absurd rfl h
  | sample v | publish v => exact hsample v
  | _ => exact ⟨rfl, rfl, rfl, rfl, rfl, rfl⟩

/-- SAMPLE, with PUBLISH, alone asks for shadow and the accumulator (R59, R60). -/
theorem writesOf_of_not_sample (p : Params) (k : Nat) (b : Block) {i : Instr} (h : i.event? ≠ some 2) :
    (writesOf p k b i).shadow = none ∧ (writesOf p k b i).accSum = none ∧ (writesOf p k b i).accCnt = none := by
  cases i with
  | sample v | publish v => exact absurd rfl h
  | _ => exact ⟨rfl, rfl, rfl⟩

/-- DP_WRITE alone asks for dp_pos (R76). -/
theorem writesOf_of_not_dpWrite (p : Params) (k : Nat) (b : Block) {i : Instr} (h : i.event? ≠ some 4) :
    (writesOf p k b i).dpPos = none := by
  cases i with
  | dpWrite d => exact absurd rfl h
  | sample v | publish v => simp only [writesOf, sampleWrites]; split <;> rfl
  | _ => rfl

/-! ### Operations with no writer in common -/

/-- No field but the flags has both operations as its writer: they have no event bit in common, and they do not both
put a value at ENC's input (R81). -/
def WriteApart (i j : Instr) : Prop :=
  (∀ e, i.event? = some e → j.event? ≠ some e) ∧ (i.encValue? = none ∨ j.encValue? = none)

theorem tickWrites_merge_comm (p : Params) (k : Nat) (b : Block) {x : Writes}
    (h : x.cursor = none ∧ x.sub = none ∧ x.active = none ∧ x.drvIdx = none ∧ x.drvPat = none ∧ x.blankCnt = none) :
    (tickWrites p k b).merge x = x.merge (tickWrites p k b) := by
  simp [tickWrites, Writes.merge, h, Bool.or_comm]

theorem sampleWrites_merge_comm (p : Params) (k : Nat) (b : Block) (v : RawSample) {x : Writes}
    (h : x.shadow = none ∧ x.accSum = none ∧ x.accCnt = none) :
    (sampleWrites p k b v).merge x = x.merge (sampleWrites p k b v) := by
  cases hend : windowEnds p b
  · simp [sampleWrites_of_not_ends hend, Writes.merge, h]
  · simp [sampleWrites_of_ends hend, Writes.merge, h]

theorem dpWriteWrites_merge_comm (d : PosCode) {x : Writes} (h : x.dpPos = none) :
    (dpWriteWrites d).merge x = x.merge (dpWriteWrites d) := by
  simp [dpWriteWrites, Writes.merge, h]

theorem encodeWrites_merge_comm (v : EncValue) {x : Writes} (h : x.enc = none) :
    (encodeWrites v).merge x = x.merge (encodeWrites v) := by
  simp [encodeWrites, Writes.merge, h]

/-- Which of two operations without a common writer stands first does not matter: the fields the one asks for, the
other leaves, and a flag is raised by either (R81). -/
theorem WriteApart.merge_comm {i j : Instr} (h : WriteApart i j) (p : Params) (k : Nat) (b : Block) :
    (writesOf p k b i).merge (writesOf p k b j) = (writesOf p k b j).merge (writesOf p k b i) := by
  obtain ⟨hevent, henc⟩ := h
  cases i with
  | reset => simp [writesOf, resetWrites, Writes.merge]
  | tick => exact tickWrites_merge_comm p k b (writesOf_of_not_tick p k b (hevent 1 rfl))
  | sample v | publish v => exact sampleWrites_merge_comm p k b v (writesOf_of_not_sample p k b (hevent 2 rfl))
  | dueAck => simp [writesOf, dueAckWrites, Writes.merge]
  | dpWrite d => exact dpWriteWrites_merge_comm d (writesOf_of_not_dpWrite p k b (hevent 4 rfl))
  | nop => simp [writesOf, nopWrites]
  | encode v =>
    have hj : j.encValue? = none := henc.resolve_left (Option.some_ne_none v)
    exact encodeWrites_merge_comm v ((writesOf_enc p k b j).trans hj)

theorem writeApart_of_clockedWf {we : Bool} {ops : List Instr} (h : clockedWf we ops = true) :
    ops.Pairwise WriteApart := by
  have henc : ∀ i ∈ ops, i.encValue? = none := List.findSome?_eq_none_iff.1 (encValue_of_clockedWf h)
  have hevent : ops.Pairwise fun i j => ∀ e, i.event? = some e → j.event? ≠ some e := by
    rcases (clockedWf_iff we ops).1 h with rfl | rfl | ⟨-, -, hsorted⟩
    · exact List.pairwise_singleton _ _
    · exact List.pairwise_singleton _ _
    · exact (List.pairwise_filterMap.1 hsorted).imp fun hlt e hi hj => (hlt e hi e hj).false
  exact hevent.imp_of_mem fun hi _ hij => ⟨hij, .inl (henc _ hi)⟩

/-- The operations of a legal cycle have no writer in common (R40, R81). -/
theorem writeApart_of_cycleWf {we : Bool} {ops : List Instr} (h : cycleWf we ops = true) :
    ops.Pairwise WriteApart := by
  rcases (cycleWf_iff we ops).1 h with hclocked | ⟨init, v, rfl, hinit⟩
  · exact writeApart_of_clockedWf hclocked
  · rcases hinit with rfl | ⟨-, hclocked⟩
    · exact List.pairwise_singleton _ _
    · have henc : ∀ i ∈ init, i.encValue? = none := List.findSome?_eq_none_iff.1 (encValue_of_clockedWf hclocked)
      refine List.pairwise_append.2 ⟨writeApart_of_clockedWf hclocked, List.pairwise_singleton _ _, ?_⟩
      intro i hi j hj
      obtain rfl := List.mem_singleton.1 hj
      exact ⟨fun e _ => nofun, .inl (henc i hi)⟩

/-! ### Any order of the operations -/

theorem cycleWrites_eq_foldr (p : Params) (k : Nat) (b : Block) (ops : List Instr) :
    cycleWrites p k b ops = ops.foldr (fun i x => (writesOf p k b i).merge x) {} := by
  induction ops with
  | nil => rfl
  | cons i is ih => rw [cycleWrites, ih, List.foldr_cons]

/-- Operations without a common writer ask for the same in any order. -/
theorem cycleWrites_perm (p : Params) (k : Nat) (b : Block) {ops ops' : List Instr} (h : ops.Pairwise WriteApart)
    (hperm : ops.Perm ops') : cycleWrites p k b ops = cycleWrites p k b ops' := by
  have hcomm : ∀ i ∈ ops, ∀ j ∈ ops,
      (writesOf p k b i).merge (writesOf p k b j) = (writesOf p k b j).merge (writesOf p k b i) :=
    List.Pairwise.forall_of_forall_of_flip (fun _ _ => rfl) (h.imp fun hij => hij.merge_comm p k b)
      (h.imp fun hij => (hij.merge_comm p k b).symm)
  rw [cycleWrites_eq_foldr, cycleWrites_eq_foldr]
  refine hperm.foldr_eq' (fun i hi j hj x => ?_) _
  rw [← Writes.merge_assoc, ← Writes.merge_assoc, hcomm i hi j hj]

/-- Settles O8: the operations of a legal cycle have no writer in common, so their joined writes are the same in any
order. -/
theorem orderWithinACycleDoesNotMatter : Obligations.OrderWithinACycleDoesNotMatter := by
  intro s ops ops' hwf hperm
  rw [State.cycle, State.cycle, cycleWrites_perm s.params s.steps s.block (writeApart_of_cycleWf hwf) hperm.symm]

/-! ### Steps and observations -/

theorem observe_succ_of_step {s t : State} (n : Nat) (h : step s = .next t) :
    observe (n + 1) s = s.outputs :: observe n t := by
  simp only [observe, h]

/-- A run of a legal block is observed in one output a step, each from the state its step starts in. -/
theorem length_observe (n : Nat) {s : State} (hp : s.params.legal = true) : (observe n s).length = n := by
  induction n generalizing s with
  | zero => rfl
  | succ n ih =>
    have hrest : (observe n (s.consume.cycle s.nextOps)).length = n := ih hp
    rw [observe_succ_of_step n (step_eq_cycle hp), List.length_cons, hrest]

theorem observe_getElem?_of_lt {n k : Nat} (hk : k < n) {s : State} (hp : s.params.legal = true) :
    ∃ t, runSteps k s = .next t ∧ t.params = s.params ∧ (observe n s)[k]? = some t.outputs := by
  induction n generalizing k s with
  | zero => omega
  | succ n ih =>
    have hstep := step_eq_cycle hp
    rw [observe_succ_of_step n hstep]
    cases k with
    | zero => exact ⟨s, rfl, rfl, rfl⟩
    | succ k =>
      obtain ⟨t, hrun, hparams, hobs⟩ := ih (k := k) (s := s.consume.cycle s.nextOps) (by omega) hp
      exact ⟨t, (run_succ_of_step core hstep).trans hrun, hparams, hobs⟩

/-- Settles O50: every state of the run is legal, so its step is one clock cycle. -/
theorem eachStepIsOneObservedClockCycle : Obligations.EachStepIsOneObservedClockCycle := by
  intro s n hp
  refine ⟨length_observe n hp, fun k hk => ?_⟩
  obtain ⟨t, hrun, hparams, hobs⟩ := observe_getElem?_of_lt hk hp
  exact ⟨t, hrun, hobs, step_eq_cycle (hparams ▸ hp)⟩

end Sys2Proof.Machine
end

section
/-! PROOFS. 60_exceptions.md: the block raises no fault (R85), so a legal one (R7) always has a next state. -/

namespace Sys2Proof.Machine

/-- Settles O11: a legal block answers with one clock cycle on its next input, and a clock cycle adds one to the steps
and places no input, so what is left placed is the tail that `consume` leaves. -/
theorem everyStepOfALegalBlockHasANextState : Obligations.EveryStepOfALegalBlockHasANextState := by
  intro s hp
  refine ⟨s.consume.cycle s.nextOps, step_eq_cycle hp, ?steps, ?inputs⟩
  case steps => rw [State.cycle_steps, State.consume_steps]
  case inputs => rw [State.cycle_inputs, State.consume_inputs]

end Sys2Proof.Machine
end

section
/-! PROOFS. 70_reset_and_hazards.md: what RESET writes (R95, R96), how long the display is dark and due is 0 after it
(R98, R100), and how soon a published generation is shown (R101). -/

namespace Sys2Proof.Machine

/-! ### RESET -/

theorem cycle_reset (s : State) :
    s.cycle [.reset] = { s with steps := s.steps + 1, block := Block.reset s.params } := rfl

/-- Settles O13: RESET alone is a cycle, and its block is RESET_STATE. -/
theorem resetWritesTheResetState : Obligations.ResetWritesTheResetState := by
  intro s
  rw [exec_eq_cycle, cycle_reset]
  rfl

/-- The mask that selects RESET (R40). -/
theorem and_rstMask_eq_iff (w : CycleWord) : w &&& 0x00001#17 = 0x00001#17 ↔ evRst w = true := by
  rw [and_evRst]
  cases evRst w <;> decide

/-- Settles O20: either cycle ends in the reset state of the same parameters. -/
theorem resetDominatesItsCycle : Obligations.ResetDominatesItsCycle := by
  intro s w w' hp hw hw'
  have hfirst : (s.afterWord w).block = Block.reset s.params := afterWord_of_reset s ((and_rstMask_eq_iff w).1 hw)
  have hsecond : ((s.afterWord w).afterWord w').block = Block.reset s.params :=
    afterWord_of_reset _ ((and_rstMask_eq_iff w').1 hw')
  exact ⟨s.afterWord w, (s.afterWord w).afterWord w', step_feed_cons hp w [], hfirst, rfl,
    step_feed_cons (s := s.afterWord w) hp w' [], hsecond.trans hfirst.symm⟩

/-! ### Dark after reset -/

/-- Whatever happens but RESET, a cycle takes at most one from the blanking that is left: a TICK in it loads the
whole of it again (R72). -/
theorem le_blankCnt_foldl_afterWord (ws : List CycleWord) {s : State} {n : Nat} (hr : noReset ws)
    (hload : n ≤ s.params.blankCycles) (hleft : n ≤ s.block.blankCnt) :
    n - ws.length ≤ (ws.foldl State.afterWord s).block.blankCnt := by
  induction ws generalizing s n with
  | nil => exact hleft
  | cons w ws ih =>
    obtain ⟨hrw, hrws⟩ := List.forall_mem_cons.1 hr
    have hnext : n - 1 ≤ (s.afterWord w).block.blankCnt := by
      simp only [afterWord_of_not_reset s hrw]
      split_ifs <;> omega
    have hrest := ih hrws (s := s.afterWord w) ((Nat.sub_le n 1).trans hload) hnext
    rwa [Nat.sub_sub, Nat.add_comm] at hrest

/-- Before the first TICK the driver has no position to show (R21, R98). -/
theorem dark_of_drvIdx_none {b : Block} (h : b.drvIdx = posNone) : dark b :=
  dark_of_not_visible (by simp [visible, h])

theorem dark_of_blankCnt_pos {b : Block} (h : 0 < b.blankCnt) : dark b :=
  dark_of_not_visible (by simp [visible, Nat.ne_of_gt h])

/-- Within BLANK_CYCLES of a TICK the display is dark, further ticks or not (R72, R100). -/
theorem dark_within_blanking {s : State} {w : CycleWord} {ws : List CycleWord} (hr : evRst w = false)
    (ht : evTick w = true) (hrws : noReset ws) (hshort : ws.length < s.params.blankCycles) :
    dark ((w :: ws).foldl State.afterWord s).block := by
  have hload : (s.afterWord w).block.blankCnt = s.params.blankCycles := by
    simp [afterWord_of_not_reset s hr, ht]
  have hleft := le_blankCnt_foldl_afterWord ws (s := s.afterWord w) hrws le_rfl hload.ge
  exact dark_of_blankCnt_pos ((Nat.sub_pos_of_lt hshort).trans_le hleft)

/-- Fewer ticks than SAMPLE_DIV is short of do not raise due (R71). -/
theorem due_foldl_afterWord_of_few_ticks (ws : List CycleWord) {s : State} (hr : noReset ws)
    (hdue : s.block.due = false) (hfew : s.block.sub + tickTotal ws < s.params.sampleDiv) :
    (ws.foldl State.afterWord s).block.due = false := by
  induction ws generalizing s with
  | nil => exact hdue
  | cons w ws ih =>
    obtain ⟨hrw, hrws⟩ := List.forall_mem_cons.1 hr
    rw [tickTotal_cons] at hfew
    cases ht : evTick w
    case false =>
      apply ih hrws <;> simp only [afterWord_of_not_reset s hrw, ht, State.afterWord_params]
      case hdue => simp [hdue, nextDue]
      case hfew => simpa [ht] using hfew
    case true =>
      simp only [ht, if_true] at hfew
      have hraise : raisesDue s.params s.block.sub = false := by
        rw [← Bool.not_eq_true, raisesDue_iff]
        omega
      apply ih hrws <;> simp only [afterWord_of_not_reset s hrw, ht, hraise, State.afterWord_params]
      case hdue => simp [hdue, nextDue]
      case hfew =>
        simp only [nextSub, hraise, if_true, Bool.false_eq_true, if_false]
        omega

/-- Settles O42: no position before the first tick, its blanking after it, and cursor 0 at it. -/
theorem darkFromResetToTheFirstDigit : Obligations.DarkFromResetToTheFirstDigit := by
  intro s w0 ws hp hr0 hr
  refine ⟨_, runWords_eq (w0 :: ws) s hp, ?_⟩
  rw [List.foldl_cons]
  have hparams : (s.afterWord w0).params = s.params := rfl
  have hreset : (s.afterWord w0).block = Block.reset s.params := afterWord_of_reset s hr0
  generalize s.afterWord w0 = r at hparams hreset ⊢
  refine ⟨fun ht => ?untilTick, fun ws1 w ws2 hws ht1 ht => ?fromTick, fun hfew => ?due⟩
  case untilTick =>
    obtain ⟨hidx, -⟩ := foldl_afterWord_of_noTick ws r ht hr
    exact dark_of_drvIdx_none (by rw [hidx, hreset, Block.reset_drvIdx])
  case fromTick =>
    subst hws
    obtain ⟨hr1, hrtail⟩ := List.forall_mem_append.1 hr
    obtain ⟨hrw, hr2⟩ := List.forall_mem_cons.1 hrtail
    obtain ⟨-, -, -, hcursor, -⟩ := foldl_afterWord_of_noTick ws1 r ht1 hr1
    rw [hreset, Block.reset_cursor] at hcursor
    have hparams1 := (foldl_afterWord_params ws1 r).trans hparams
    rw [List.foldl_append, ← hparams1]
    generalize ws1.foldl State.afterWord r = t1 at hcursor ⊢
    refine ⟨dark_within_blanking hrw ht hr2, fun ht2 hlong => ?shown⟩
    case shown =>
      obtain ⟨q, hq⟩ := cellAt_of_ne_none (shownDigits t1.block) (c := t1.block.cursor) (by simp [hcursor])
      obtain ⟨hsel, -⟩ := lines_of_tick_then_noTick hrw ht hr2 ht2 hlong hq
      rw [hsel, hcursor]
      rfl
  case due =>
    apply due_foldl_afterWord_of_few_ticks ws hr <;> simp [hreset, hparams, hfew]

/-! ### From publish to display -/

/-- A list with more than `k` ticks has one that comes after exactly `k` others. -/
theorem exists_split_at_tick {k : Nat} {ws : List CycleWord} (h : k < tickTotal ws) :
    ∃ ws1 w ws2, ws = ws1 ++ w :: ws2 ∧ evTick w = true ∧ tickTotal ws1 = k := by
  induction ws generalizing k with
  | nil => exact absurd h (Nat.not_lt_zero k)
  | cons w ws ih =>
    rw [tickTotal_cons] at h
    cases ht : evTick w
    case false =>
      obtain ⟨ws1, w', ws2, rfl, ht', hk⟩ := ih (k := k) (by simpa [ht] using h)
      exact ⟨w :: ws1, w', ws2, rfl, ht', by simp [tickTotal_cons, ht, hk]⟩
    case true =>
      cases k with
      | zero => exact ⟨[], w, ws, rfl, ht, rfl⟩
      | succ k =>
        obtain ⟨ws1, w', ws2, rfl, ht', hk⟩ := ih (k := k) (by simpa [ht] using h)
        exact ⟨w :: ws1, w', ws2, rfl, ht', by simp [tickTotal_cons, ht, hk]⟩

/-- How many ticks the cursor is from cursor 0, the start of a frame (R70). -/
def ticksToFrameStart (c : PosCode) : Nat := (3 - c.toNat) % 3

theorem ticksToFrameStart_eq_zero {c : PosCode} (hc : c ≠ posNone) (h : ticksToFrameStart c = 0) : c = 0#2 := by
  revert hc h; revert c; decide

/-- A TICK at a position other than 0 brings the cursor one tick nearer. -/
theorem ticksToFrameStart_nextCursor (draw : Nat) {c : PosCode} (hc : c ≠ posNone) (h0 : c ≠ 0#2) :
    ticksToFrameStart (nextCursor draw c) + 1 = ticksToFrameStart c := by
  rcases posCode_cases hc with rfl | rfl | rfl
  · exact absurd rfl h0
  all_goals simp [nextCursor, ticksToFrameStart]

/-- The ticks up to the next frame start swap no buffers: active is kept, and what is pending stays so (R68). -/
theorem foldl_afterWord_to_frameStart (ws : List CycleWord) {s : State} (hr : noReset ws)
    (hc : s.block.cursor ≠ posNone) (hpend : s.block.pending = true)
    (hticks : tickTotal ws = ticksToFrameStart s.block.cursor) :
    let t := ws.foldl State.afterWord s
    t.block.cursor = 0#2 ∧ t.block.pending = true ∧ t.block.active = s.block.active := by
  induction ws generalizing s with
  | nil => exact ⟨ticksToFrameStart_eq_zero hc hticks.symm, hpend, rfl⟩
  | cons w ws ih =>
    obtain ⟨hrw, hrws⟩ := List.forall_mem_cons.1 hr
    rw [tickTotal_cons] at hticks
    have hb := afterWord_of_not_reset s hrw
    cases ht : evTick w
    case false =>
      simp only [ht, Bool.false_and, Bool.false_eq_true, if_false, Nat.add_zero] at hticks hb
      have hrest := ih (s := s.afterWord w) hrws (by simpa [hb] using hc) (by simp [hb, nextPending_iff, hpend])
        (by simpa [hb] using hticks)
      simpa [hb] using hrest
    case true =>
      have h0 : s.block.cursor ≠ 0#2 := by
        intro h0
        simp [ht, h0, ticksToFrameStart] at hticks
      have hswap : swapFires s.block = false := by simp [swapFires, h0]
      simp only [ht, hswap, if_true, Bool.and_false, shownDigits_of_cursor_ne_zero h0] at hticks hb
      have hnear := ticksToFrameStart_nextCursor s.steps hc h0
      have hrest := ih (s := s.afterWord w) hrws (by simpa [hb] using nextCursor_ne_none _ hc)
        (by simp [hb, nextPending_iff, hpend]) (by rw [hb]; simp only; omega)
      simpa [hb] using hrest

/-- A word whose sample does not complete the window publishes nothing (R63). -/
theorem publishes_eq_false {p : Params} {b : Block} {w : CycleWord} {ws : List CycleWord}
    (hopen : b.accCnt + (samplesOf (w :: ws)).length < p.window) : (evSample w && windowEnds p b) = false := by
  rw [Bool.and_eq_false_imp, ← Bool.not_eq_true, windowEnds_iff]
  intro hs
  rw [length_samplesOf_cons, if_pos hs] at hopen
  omega

/-- The TICK that starts a frame swaps the pending generation in and latches its units cell (R67 to R69). -/
theorem afterWord_of_frameStart {s : State} {w : CycleWord} (hr : evRst w = false) (ht : evTick w = true)
    (hc : s.block.cursor = 0#2) (hpend : s.block.pending = true)
    (hpub : (evSample w && windowEnds s.params s.block) = false) :
    let t := s.afterWord w
    t.block.active = s.block.shadow ∧ t.block.pending = false ∧ t.block.drvIdx = 0#2 ∧
      t.block.drvPat = s.block.shadow.units ||| (if s.block.dpPos = 0#2 then dpMask else 0x00#8) := by
  have hswap : swapFires s.block = true := (swapFires_iff _).2 ⟨hc, hpend⟩
  have hshown : shownDigits s.block = s.block.shadow := if_pos hswap
  simp only [afterWord_of_not_reset s hr, ht, hpub, hshown, hswap, hc, drivePattern_of_cell (cellAt_zero _)]
  exact ⟨rfl, rfl, rfl, rfl⟩

/-- With nothing pending and nothing published no frame swap happens: active is kept (R63, R68). -/
theorem foldl_afterWord_of_not_pending (ws : List CycleWord) {s : State} (hr : noReset ws)
    (hopen : s.block.accCnt + (samplesOf ws).length < s.params.window) (hpend : s.block.pending = false) :
    let t := ws.foldl State.afterWord s
    t.block.active = s.block.active ∧ t.block.pending = false := by
  obtain ⟨-, hpending, hactive, -, -⟩ := windowOpen_foldl_afterWord ws hr hopen
  simp only [hpend, Bool.false_eq_true, imp_false, false_and, or_false, Bool.not_eq_true] at hpending hactive
  exact ⟨hactive, hpending⟩

/-- Settles O44: the ticks up to the frame start keep the generation pending, the tick there swaps it in, and with
nothing pending no later one swaps it out. -/
theorem aPublishedGenerationIsShownWithinThreeTicks : Obligations.APublishedGenerationIsShownWithinThreeTicks := by
  intro s ws hp hc hpend hr hopen hticks
  have hbefore : ticksToFrameStart s.block.cursor < tickTotal ws := (Nat.mod_lt _ (by decide)).trans_le hticks
  obtain ⟨ws1, w, ws2, rfl, ht, hticks1⟩ := exists_split_at_tick hbefore
  obtain ⟨hr1, hrtail⟩ := List.forall_mem_append.1 hr
  obtain ⟨hrw, hr2⟩ := List.forall_mem_cons.1 hrtail
  rw [length_samplesOf_append] at hopen
  obtain ⟨hcursor1, hpend1, hactive1⟩ := foldl_afterWord_to_frameStart ws1 hr1 hc hpend hticks1
  obtain ⟨hshadow1, -, -, -, hcount1⟩ := windowOpen_foldl_afterWord ws1 (s := s) hr1 (by omega)
  have hparams1 := foldl_afterWord_params ws1 s
  have hrun1 := runWords_eq ws1 s hp
  have hrun (vs : List CycleWord) :
      runWords (ws1 ++ vs) s = .next (vs.foldl State.afterWord (ws1.foldl State.afterWord s)) := by
    rw [runWords_eq _ s hp, List.foldl_append]
  generalize ws1.foldl State.afterWord s = t1 at *
  have hopen1 : t1.block.accCnt + (samplesOf (w :: ws2)).length < t1.params.window := by
    rwa [hcount1, hparams1, Nat.add_assoc]
  obtain ⟨hactive2, hpend2, hidx2, hpat2⟩ :=
    afterWord_of_frameStart hrw ht hcursor1 hpend1 (publishes_eq_false hopen1)
  obtain ⟨hactive, hpending⟩ := foldl_afterWord_of_not_pending ws2 (s := t1.afterWord w) hr2
    ((accCnt_afterWord_add_le t1 hrw ws2).trans_lt hopen1) hpend2
  rw [hshadow1] at hactive2 hpat2
  refine ⟨ws1, w, ws2, t1, t1.afterWord w, (w :: ws2).foldl State.afterWord t1, rfl, ht, hticks1, hrun1, hcursor1,
    hpend1, hactive1, hshadow1, ⟨hrun [w], hactive2, hpend2, hidx2, hpat2, fun ws3 ht3 hr3 hlong => ?lines⟩,
    hrun (w :: ws2), hactive.trans hactive2, hpending⟩
  case lines =>
    have hshown : shownDigits t1.block = s.block.shadow := by
      rw [shownDigits_of_cursor_zero hcursor1, if_pos hpend1, hshadow1]
    have hcell : cellAt (shownDigits t1.block) t1.block.cursor = some s.block.shadow.units := by
      rw [hshown, hcursor1, cellAt_zero]
    have hlines := lines_of_tick_then_noTick hrw ht hr3 ht3 (hparams1 ▸ hlong) hcell
    rw [hcursor1] at hlines
    exact ⟨_, hrun (w :: ws3), hlines⟩

end Sys2Proof.Machine
end
